-- ==== Sys2Proof/Word.lean ====
section
/-! DEFINITION. The widths of the block: bytes, 64-bit words, register indices and sponge lanes. -/

namespace Sys2Proof

/-- A byte is 8 bits (20_memory.md R61). -/
abbrev Byte := BitVec 8

/-- A command word, a host register, a lane: 64 bits, bit 0 the least significant (00_scope.md R8). -/
abbrev Word := BitVec 64

/-- The index of one of the 16 big-integer registers `R0..R15` (10_state.md R21, 30_encoding.md R97). -/
abbrev Reg := Fin 16

/-- The 25 lanes `A[0..24]` of the sponge unit (10_state.md R40). -/
abbrev Lanes := Vector Word 25

/-- `LIMBBITS`, fixed at 64 (00_scope.md R6). -/
def limbBits : Nat := 64

/-- `NREG`, fixed at 16 (00_scope.md R6). -/
def numRegs : Nat := 16

end Sys2Proof
end

