-- ==== Sys2Proof/Syntax.lean ====
section
/-! DEFINITION. The 32 commands of the command set `PCME-1` (30_encoding.md R98), one constructor per row of
spec/opcode_table.json, and the pseudo-instructions of R104. -/

namespace Sys2Proof

/-- The `mode` field of `LD`, `ST`, `ENCLEN` (30_encoding.md R91, R103; 20_memory.md R62). -/
inductive Codec where
  /-- `.UBE`, mode 0: unsigned big-endian. -/
  | ube
  /-- `.ULE`, mode 1: unsigned little-endian. -/
  | ule
  /-- `.SBE`, mode 2: signed big-endian. -/
  | sbe
  /-- `.SLE`, mode 3: signed little-endian. -/
  | sle
deriving DecidableEq, Repr

/-- One command with its live fields (30_encoding.md R92), in the order of the command word: `rd`, then `rc` and
`re` where they are destinations, then `ra`, `rb`, then `rc` where it is a source, then the immediates. -/
inductive Instr where
  /-- `NOP` (46_system.md R270). -/
  | nop
  /-- `LDI Rd, imm` (44_moves_encoding.md R213). -/
  | ldi (rd : Reg) (imm : BitVec 32)
  /-- `MOV Rd, Ra` (R214). -/
  | mov (rd ra : Reg)
  /-- `LD.<mode> Rd, [addr], len` (R215). -/
  | ld (rd : Reg) (mode : Codec) (len addr : BitVec 16)
  /-- `ST.<mode> Ra, [addr], len` (R216). -/
  | st (ra : Reg) (mode : Codec) (len addr : BitVec 16)
  /-- `ENCLEN.<mode> Ra` (R217). -/
  | enclen (ra : Reg) (mode : Codec)
  /-- `ADD Rd, Ra, Rb` (40_arith.md R122). -/
  | add (rd ra rb : Reg)
  /-- `SUB Rd, Ra, Rb` (R123). -/
  | sub (rd ra rb : Reg)
  /-- `NEG Rd, Ra` (R124). -/
  | neg (rd ra : Reg)
  /-- `MUL Rd, Ra, Rb` (R125). -/
  | mul (rd ra rb : Reg)
  /-- `DIVREM Rq, Rr, Ra, Rb` (R126): quotient in `rd`, remainder in `rc`. -/
  | divrem (rd rc ra rb : Reg)
  /-- `MOD Rd, Ra, Rb` (R127). -/
  | mod (rd ra rb : Reg)
  /-- `AND Rd, Ra, Rb` (41_bitwise_predicates.md R142). -/
  | and (rd ra rb : Reg)
  /-- `OR Rd, Ra, Rb` (R143). -/
  | or (rd ra rb : Reg)
  /-- `XOR Rd, Ra, Rb` (R144). -/
  | xor (rd ra rb : Reg)
  /-- `NOT Rd, Ra` (R145). -/
  | not (rd ra : Reg)
  /-- `SHL Rd, Ra, n` (R146). -/
  | shl (rd ra : Reg) (n : BitVec 32)
  /-- `SHR Rd, Ra, n` (R147). -/
  | shr (rd ra : Reg) (n : BitVec 32)
  /-- `TST Ra` (R148). -/
  | tst (ra : Reg)
  /-- `TBIT Ra, i` (R149). -/
  | tbit (ra : Reg) (i : BitVec 32)
  /-- `BITLEN Ra` (R150). -/
  | bitlen (ra : Reg)
  /-- `CTZ Ra` (R151). -/
  | ctz (ra : Reg)
  /-- `MODINV Rd, Ra, Rb` (42_modinv_gcd.md R162). -/
  | modinv (rd ra rb : Reg)
  /-- `GCD Rd, Ra, Rb` (R163). -/
  | gcd (rd ra rb : Reg)
  /-- `XGCD Rg, Ru, Rv, Ra, Rb` (R164): `g` in `rd`, `u` in `rc`, `v` in `re`. -/
  | xgcd (rd rc re ra rb : Reg)
  /-- `MODPOW Rd, Ra, Rb, Rc` (43_modpow.md R182): base, exponent, modulus. -/
  | modpow (rd ra rb rc : Reg)
  /-- `KINIT c` (45_keccak.md R240). -/
  | kinit (c : BitVec 32)
  /-- `KRESET` (R241). -/
  | kreset
  /-- `KABS [addr], len` (R242). -/
  | kabs (len addr : BitVec 16)
  /-- `KFLIP.SHAKE` / `KFLIP.SHA3` (R243). -/
  | kflip (shake : Bool)
  /-- `KSQZ [addr], len` (R244). -/
  | ksqz (len addr : BitVec 16)
  /-- `KPERM` (R245). -/
  | kperm
deriving DecidableEq, Repr

/-- Pseudo-instruction `SQR Rd, Ra` (30_encoding.md R104). -/
abbrev Instr.sqr (rd ra : Reg) : Instr := .mul rd ra ra

/-- Pseudo-instruction `DBL Rd, Ra` (30_encoding.md R104). -/
abbrev Instr.dbl (rd ra : Reg) : Instr := .add rd ra ra

/-- Pseudo-instruction `KSHAKE128` (30_encoding.md R104). -/
abbrev Instr.kshake128 : Instr := .kinit 256

end Sys2Proof
end

