-- ==== Sys2Proof/WellFormed.lean ====
section
/-! DEFINITION. Which commands have a legal word: every one, but for `DIVREM` and `XGCD` with two equal
destinations (30_encoding.md R98, R100 items 3 and 4). -/

namespace Sys2Proof

/-- The extra condition of 30_encoding.md R98: distinct destinations. The other checks of R100 concern bits of
the word that are no part of an `Instr`. -/
def Instr.WellFormed : Instr → Bool
  | .nop => true
  | .ldi _ _ => true
  | .mov _ _ => true
  | .ld _ _ _ _ => true
  | .st _ _ _ _ => true
  | .enclen _ _ => true
  | .add _ _ _ => true
  | .sub _ _ _ => true
  | .neg _ _ => true
  | .mul _ _ _ => true
  | .divrem rd rc _ _ => rd != rc
  | .mod _ _ _ => true
  | .and _ _ _ => true
  | .or _ _ _ => true
  | .xor _ _ _ => true
  | .not _ _ => true
  | .shl _ _ _ => true
  | .shr _ _ _ => true
  | .tst _ => true
  | .tbit _ _ => true
  | .bitlen _ => true
  | .ctz _ => true
  | .modinv _ _ _ => true
  | .gcd _ _ _ => true
  | .xgcd rd rc re _ _ => rd != rc && rd != re && rc != re
  | .modpow _ _ _ _ => true
  | .kinit _ => true
  | .kreset => true
  | .kabs _ _ => true
  | .kflip _ => true
  | .ksqz _ _ => true
  | .kperm => true

end Sys2Proof
end

