-- ==== Sys2Proof/Decode.lean ====
section
/-! DEFINITION. The command encoding (30_encoding.md): the fields of a command word, the opcode table of R98, the
total decoder of R99 and the encoder. A command word is one 64-bit value without a byte order (R90,
20_memory.md R64). -/

namespace Sys2Proof

/-- The fields of a command word (30_encoding.md R91). -/
structure Fields where
  op : BitVec 8
  rd : BitVec 4
  ra : BitVec 4
  rb : BitVec 4
  rc : BitVec 4
  fn : BitVec 8
  imm : BitVec 32
deriving DecidableEq, Repr

/-- The fields at their places in the word: `op[63:56] rd[55:52] ra[51:48] rb[47:44] rc[43:40] fn[39:32]
imm32[31:0]` (30_encoding.md R91). -/
def fieldsOf (w : Word) : Fields where
  op := w.extractLsb' 56 8
  rd := w.extractLsb' 52 4
  ra := w.extractLsb' 48 4
  rb := w.extractLsb' 44 4
  rc := w.extractLsb' 40 4
  fn := w.extractLsb' 32 8
  imm := w.extractLsb' 0 32

/-- The word with the given fields (30_encoding.md R91). -/
def pack (f : Fields) : Word := f.op ++ f.rd ++ f.ra ++ f.rb ++ f.rc ++ f.fn ++ f.imm

/-- A register field is a plain index (30_encoding.md R97). -/
def toReg (x : BitVec 4) : Reg := ⟨x.toNat, x.isLt⟩

/-- The register field of an index (30_encoding.md R97). -/
def ofReg (r : Reg) : BitVec 4 := BitVec.ofNat 4 r.val

/-- The four values of the `mode` field (30_encoding.md R91, R103). -/
def toCodec (x : BitVec 2) : Codec :=
  if x = 0 then .ube else if x = 1 then .ule else if x = 2 then .sbe else .sle

/-- The `mode` field of an encoding (30_encoding.md R91, R103). -/
def ofCodec : Codec → BitVec 2
  | .ube => 0
  | .ule => 1
  | .sbe => 2
  | .sle => 3

/-- Sub-field `mode` of `fn`, bits 33:32 of the word (30_encoding.md R91). -/
def Fields.mode (f : Fields) : Codec := toCodec (f.fn.extractLsb' 0 2)

/-- Sub-field `shake` of `fn`, bit 32 of the word (30_encoding.md R91). -/
def Fields.shake (f : Fields) : Bool := f.fn.getLsbD 0

/-- Sub-field `re` of `fn`, bits 39:36 of the word (30_encoding.md R91). -/
def Fields.re (f : Fields) : BitVec 4 := f.fn.extractLsb' 4 4

/-- Sub-field `len` of `imm32`, bits 31:16 of the word (30_encoding.md R91, R96). -/
def Fields.len (f : Fields) : BitVec 16 := f.imm.extractLsb' 16 16

/-- Sub-field `addr` of `imm32`, bits 15:0 of the word (30_encoding.md R91, R96). -/
def Fields.addr (f : Fields) : BitVec 16 := f.imm.extractLsb' 0 16

/-- One row of the opcode map of 30_encoding.md R98: `build` reads the row's live fields. -/
structure OpcodeRow where
  mnemonic : String
  op : BitVec 8
  pattern : Word
  mask : Word
  build : Fields → Instr

/-- The opcode map (30_encoding.md R98), row by row. -/
def opcodeTable : List OpcodeRow :=
  [⟨"NOP", 0x01#8, 0x0100000000000000#64, 0xFFFFFFFFFFFFFFFF#64, fun _ => .nop⟩,
  ⟨"LDI", 0x10#8, 0x1000000000000000#64, 0xFF0FFFFF00000000#64, fun f => .ldi (toReg f.rd) f.imm⟩,
  ⟨"MOV", 0x11#8, 0x1100000000000000#64, 0xFF00FFFFFFFFFFFF#64, fun f => .mov (toReg f.rd) (toReg f.ra)⟩,
  ⟨"LD", 0x12#8, 0x1200000000000000#64, 0xFF0FFFFC00000000#64, fun f => .ld (toReg f.rd) f.mode f.len f.addr⟩,
  ⟨"ST", 0x13#8, 0x1300000000000000#64, 0xFFF0FFFC00000000#64, fun f => .st (toReg f.ra) f.mode f.len f.addr⟩,
  ⟨"ENCLEN", 0x14#8, 0x1400000000000000#64, 0xFFF0FFFCFFFFFFFF#64, fun f => .enclen (toReg f.ra) f.mode⟩,
  ⟨"ADD", 0x20#8, 0x2000000000000000#64, 0xFF000FFFFFFFFFFF#64, fun f => .add (toReg f.rd) (toReg f.ra) (toReg f.rb)⟩,
  ⟨"SUB", 0x21#8, 0x2100000000000000#64, 0xFF000FFFFFFFFFFF#64, fun f => .sub (toReg f.rd) (toReg f.ra) (toReg f.rb)⟩,
  ⟨"NEG", 0x22#8, 0x2200000000000000#64, 0xFF00FFFFFFFFFFFF#64, fun f => .neg (toReg f.rd) (toReg f.ra)⟩,
  ⟨"MUL", 0x23#8, 0x2300000000000000#64, 0xFF000FFFFFFFFFFF#64, fun f => .mul (toReg f.rd) (toReg f.ra) (toReg f.rb)⟩,
  ⟨"DIVREM", 0x24#8, 0x2400000000000000#64, 0xFF0000FFFFFFFFFF#64, fun f => .divrem (toReg f.rd) (toReg f.rc) (toReg f.ra) (toReg f.rb)⟩,
  ⟨"MOD", 0x25#8, 0x2500000000000000#64, 0xFF000FFFFFFFFFFF#64, fun f => .mod (toReg f.rd) (toReg f.ra) (toReg f.rb)⟩,
  ⟨"AND", 0x30#8, 0x3000000000000000#64, 0xFF000FFFFFFFFFFF#64, fun f => .and (toReg f.rd) (toReg f.ra) (toReg f.rb)⟩,
  ⟨"OR", 0x31#8, 0x3100000000000000#64, 0xFF000FFFFFFFFFFF#64, fun f => .or (toReg f.rd) (toReg f.ra) (toReg f.rb)⟩,
  ⟨"XOR", 0x32#8, 0x3200000000000000#64, 0xFF000FFFFFFFFFFF#64, fun f => .xor (toReg f.rd) (toReg f.ra) (toReg f.rb)⟩,
  ⟨"NOT", 0x33#8, 0x3300000000000000#64, 0xFF00FFFFFFFFFFFF#64, fun f => .not (toReg f.rd) (toReg f.ra)⟩,
  ⟨"SHL", 0x34#8, 0x3400000000000000#64, 0xFF00FFFF00000000#64, fun f => .shl (toReg f.rd) (toReg f.ra) f.imm⟩,
  ⟨"SHR", 0x35#8, 0x3500000000000000#64, 0xFF00FFFF00000000#64, fun f => .shr (toReg f.rd) (toReg f.ra) f.imm⟩,
  ⟨"TST", 0x38#8, 0x3800000000000000#64, 0xFFF0FFFFFFFFFFFF#64, fun f => .tst (toReg f.ra)⟩,
  ⟨"TBIT", 0x39#8, 0x3900000000000000#64, 0xFFF0FFFF00000000#64, fun f => .tbit (toReg f.ra) f.imm⟩,
  ⟨"BITLEN", 0x3A#8, 0x3A00000000000000#64, 0xFFF0FFFFFFFFFFFF#64, fun f => .bitlen (toReg f.ra)⟩,
  ⟨"CTZ", 0x3B#8, 0x3B00000000000000#64, 0xFFF0FFFFFFFFFFFF#64, fun f => .ctz (toReg f.ra)⟩,
  ⟨"MODINV", 0x40#8, 0x4000000000000000#64, 0xFF000FFFFFFFFFFF#64, fun f => .modinv (toReg f.rd) (toReg f.ra) (toReg f.rb)⟩,
  ⟨"GCD", 0x41#8, 0x4100000000000000#64, 0xFF000FFFFFFFFFFF#64, fun f => .gcd (toReg f.rd) (toReg f.ra) (toReg f.rb)⟩,
  ⟨"XGCD", 0x42#8, 0x4200000000000000#64, 0xFF00000FFFFFFFFF#64, fun f => .xgcd (toReg f.rd) (toReg f.rc) (toReg f.re) (toReg f.ra) (toReg f.rb)⟩,
  ⟨"MODPOW", 0x43#8, 0x4300000000000000#64, 0xFF0000FFFFFFFFFF#64, fun f => .modpow (toReg f.rd) (toReg f.ra) (toReg f.rb) (toReg f.rc)⟩,
  ⟨"KINIT", 0x50#8, 0x5000000000000000#64, 0xFFFFFFFF00000000#64, fun f => .kinit f.imm⟩,
  ⟨"KRESET", 0x51#8, 0x5100000000000000#64, 0xFFFFFFFFFFFFFFFF#64, fun _ => .kreset⟩,
  ⟨"KABS", 0x52#8, 0x5200000000000000#64, 0xFFFFFFFF00000000#64, fun f => .kabs f.len f.addr⟩,
  ⟨"KFLIP", 0x53#8, 0x5300000000000000#64, 0xFFFFFFFEFFFFFFFF#64, fun f => .kflip f.shake⟩,
  ⟨"KSQZ", 0x54#8, 0x5400000000000000#64, 0xFFFFFFFF00000000#64, fun f => .ksqz f.len f.addr⟩,
  ⟨"KPERM", 0x55#8, 0x5500000000000000#64, 0xFFFFFFFFFFFFFFFF#64, fun _ => .kperm⟩]

/-- Why a word is no command (30_encoding.md R100); each of them is `IllegalCommand`. -/
inductive DecodeError where
  /-- Item 1: `op` is not one of the 32 values. -/
  | unassignedOp
  /-- Item 2: a field that is not live holds a non-zero bit. -/
  | nonzeroField
  /-- Items 3 and 4: two destinations of `DIVREM` or `XGCD` are one register. -/
  | equalDestinations
deriving DecidableEq, Repr

/-- The row of an `op`: ops are unique, so at most one (30_encoding.md R99). -/
def rowOf (op : BitVec 8) : Option OpcodeRow := opcodeTable.find? fun r => r.op == op

/-- The decoding procedure, total on all words (30_encoding.md R99). -/
def decode (w : Word) : Except DecodeError Instr :=
  match rowOf (fieldsOf w).op with
  | none => .error .unassignedOp
  | some row =>
    if w &&& row.mask ≠ row.pattern then .error .nonzeroField
    else if (row.build (fieldsOf w)).WellFormed then .ok (row.build (fieldsOf w))
    else .error .equalDestinations

/-- The fields of a word with every field zero but `op`: what a format without live fields has. -/
def Fields.ofOp (op : BitVec 8) : Fields := { op := op, rd := 0, ra := 0, rb := 0, rc := 0, fn := 0, imm := 0 }

/-- Format R1: `rd`, `ra` live (30_encoding.md R92). -/
def fieldsR1 (op : BitVec 8) (rd ra : Reg) : Fields :=
  { Fields.ofOp op with rd := ofReg rd, ra := ofReg ra }

/-- Format R2: `rd`, `ra`, `rb` live (30_encoding.md R92). -/
def fieldsR2 (op : BitVec 8) (rd ra rb : Reg) : Fields :=
  { Fields.ofOp op with rd := ofReg rd, ra := ofReg ra, rb := ofReg rb }

/-- Formats R3 and RQ: `rd`, `ra`, `rb`, `rc` live (30_encoding.md R92). -/
def fieldsR3 (op : BitVec 8) (rd ra rb rc : Reg) : Fields :=
  { Fields.ofOp op with rd := ofReg rd, ra := ofReg ra, rb := ofReg rb, rc := ofReg rc }

/-- Format RI: `rd`, `ra`, `imm32` live (30_encoding.md R92). -/
def fieldsRI (op : BitVec 8) (rd ra : Reg) (imm : BitVec 32) : Fields :=
  { Fields.ofOp op with rd := ofReg rd, ra := ofReg ra, imm := imm }

/-- Format S: `ra` live (30_encoding.md R92). -/
def fieldsS (op : BitVec 8) (ra : Reg) : Fields := { Fields.ofOp op with ra := ofReg ra }

/-- Format K: `len`, `addr` live (30_encoding.md R92). -/
def fieldsK (op : BitVec 8) (len addr : BitVec 16) : Fields :=
  { Fields.ofOp op with imm := len ++ addr }

/-- The `fn` byte that holds a `mode` (30_encoding.md R91). -/
def fnOfMode (m : Codec) : BitVec 8 := (0 : BitVec 6) ++ ofCodec m

/-- The fields of a command, format by format (30_encoding.md R92, R98). -/
def encodeFields : Instr → Fields
  | .nop => .ofOp 0x01
  | .ldi rd imm => { Fields.ofOp 0x10 with rd := ofReg rd, imm := imm }
  | .mov rd ra => fieldsR1 0x11 rd ra
  | .ld rd mode len addr => { fieldsK 0x12 len addr with rd := ofReg rd, fn := fnOfMode mode }
  | .st ra mode len addr => { fieldsK 0x13 len addr with ra := ofReg ra, fn := fnOfMode mode }
  | .enclen ra mode => { fieldsS 0x14 ra with fn := fnOfMode mode }
  | .add rd ra rb => fieldsR2 0x20 rd ra rb
  | .sub rd ra rb => fieldsR2 0x21 rd ra rb
  | .neg rd ra => fieldsR1 0x22 rd ra
  | .mul rd ra rb => fieldsR2 0x23 rd ra rb
  | .divrem rd rc ra rb => fieldsR3 0x24 rd ra rb rc
  | .mod rd ra rb => fieldsR2 0x25 rd ra rb
  | .and rd ra rb => fieldsR2 0x30 rd ra rb
  | .or rd ra rb => fieldsR2 0x31 rd ra rb
  | .xor rd ra rb => fieldsR2 0x32 rd ra rb
  | .not rd ra => fieldsR1 0x33 rd ra
  | .shl rd ra n => fieldsRI 0x34 rd ra n
  | .shr rd ra n => fieldsRI 0x35 rd ra n
  | .tst ra => fieldsS 0x38 ra
  | .tbit ra i => { fieldsS 0x39 ra with imm := i }
  | .bitlen ra => fieldsS 0x3A ra
  | .ctz ra => fieldsS 0x3B ra
  | .modinv rd ra rb => fieldsR2 0x40 rd ra rb
  | .gcd rd ra rb => fieldsR2 0x41 rd ra rb
  | .xgcd rd rc re ra rb => { fieldsR3 0x42 rd ra rb rc with fn := ofReg re ++ (0 : BitVec 4) }
  | .modpow rd ra rb rc => fieldsR3 0x43 rd ra rb rc
  | .kinit c => { Fields.ofOp 0x50 with imm := c }
  | .kreset => .ofOp 0x51
  | .kabs len addr => fieldsK 0x52 len addr
  | .kflip shake => { Fields.ofOp 0x53 with fn := (0 : BitVec 7) ++ BitVec.ofBool shake }
  | .ksqz len addr => fieldsK 0x54 len addr
  | .kperm => .ofOp 0x55

/-- The command word of a well-formed command (30_encoding.md R91, R98). -/
def encode (i : Instr) : Word := pack (encodeFields i)

/-- The instruction the decoder reads from the bits `w` of an opcode-table row of `nbits` bits; the command word is
one 64-bit value, so its bits are numbered as the table numbers them (log entry 15). -/
def decodeTableWord (nbits w : Nat) : Option Instr := (decode (BitVec.ofNat 64 (w % 2 ^ nbits))).toOption

end Sys2Proof
end

