-- ==== Sys2Proof/Machine/Integer.lean ====
section
/-! DEFINITION. The exact integer functions the rules use (00_scope.md R9, R10; 41_bitwise_predicates.md R140,
R141). Values are mathematical integers: nothing here wraps. -/

namespace Sys2Proof.Machine

/-- `tdiv(a, b)`: the quotient truncated toward zero (00_scope.md R10). -/
def tdiv (a b : Int) : Int := a.sign * b.sign * ((a.natAbs / b.natAbs : Nat) : Int)

/-- `trem(a, b) = a − b·tdiv(a, b)` (00_scope.md R10). -/
def trem (a b : Int) : Int := a - b * tdiv a b

/-- `emod(a, m) = a − |m|·floor(a / |m|)`, in `[0, |m|)` (00_scope.md R10); `/` is the floor for a divisor above 0. -/
def emod (a m : Int) : Int := a - (m.natAbs : Int) * (a / (m.natAbs : Int))

/-- `gcd(a, b)`, never negative (00_scope.md R10, 42_modinv_gcd.md R160). -/
def gcdInt (a b : Int) : Int := (Int.gcd a b : Int)

/-- `floor(a / 2^n)`: the arithmetic right shift (41_bitwise_predicates.md R147). -/
def shiftRight (a : Int) (n : Nat) : Int := a >>> n

/-- `bit(v, i) = floor(v / 2^i) mod 2`: bit `i` of the infinite two's-complement expansion (00_scope.md R9). -/
def bit (v : Int) (i : Nat) : Bool := shiftRight v i % 2 == 1

/-- The least `k` with `n < 2^k` (00_scope.md R10). -/
def bitlenNat (n : Nat) : Nat := if n = 0 then 0 else n.log2 + 1

/-- `bitlen(v)`: for `v ≥ 0` the least `k` with `v < 2^k`, for `v < 0` that of `−v − 1` (00_scope.md R10). -/
def bitlen (v : Int) : Nat := if 0 ≤ v then bitlenNat v.toNat else bitlenNat (-v - 1).toNat

/-- The exponent of 2 in `n`, found in at most `fuel` halvings. -/
def ctzFuel : Nat → Nat → Nat
  | 0, _ => 0
  | fuel + 1, n => if n % 2 = 1 then 0 else ctzFuel fuel (n / 2) + 1

/-- `ctz(v)` for `v > 0`: the greatest `k` with `2^k` dividing `v` (00_scope.md R10). -/
def ctz (v : Int) : Nat := ctzFuel (bitlen v) v.toNat

/-- `a AND NOT b` on natural numbers. -/
def andNotNat (a b : Nat) : Nat := a ^^^ (a &&& b)

/-- `bitwise_and`, on the infinite two's-complement bits (41_bitwise_predicates.md R140). -/
def bitwiseAnd : Int → Int → Int
  | .ofNat a, .ofNat b => .ofNat (a &&& b)
  | .ofNat a, .negSucc b => .ofNat (andNotNat a b)
  | .negSucc a, .ofNat b => .ofNat (andNotNat b a)
  | .negSucc a, .negSucc b => .negSucc (a ||| b)

/-- `bitwise_or` (41_bitwise_predicates.md R140). -/
def bitwiseOr : Int → Int → Int
  | .ofNat a, .ofNat b => .ofNat (a ||| b)
  | .ofNat a, .negSucc b => .negSucc (andNotNat b a)
  | .negSucc a, .ofNat b => .negSucc (andNotNat a b)
  | .negSucc a, .negSucc b => .negSucc (a &&& b)

/-- `bitwise_xor` (41_bitwise_predicates.md R140). -/
def bitwiseXor : Int → Int → Int
  | .ofNat a, .ofNat b => .ofNat (a ^^^ b)
  | .ofNat a, .negSucc b => .negSucc (a ^^^ b)
  | .negSucc a, .ofNat b => .negSucc (a ^^^ b)
  | .negSucc a, .negSucc b => .ofNat (a ^^^ b)

/-- `NOT a = −a − 1` (41_bitwise_predicates.md R141, R145). -/
def bitwiseNot (a : Int) : Int := -a - 1

/-- `a · 2^n`; 0 for `a = 0` without forming the power, whose exponent may be `2^32 − 1`
(41_bitwise_predicates.md R146). -/
def shiftLeft (a : Int) (n : Nat) : Int := if a = 0 then 0 else a * ((2 ^ n : Nat) : Int)

end Sys2Proof.Machine
end

