-- ==== Sys2Proof/Machine/Flags.lean ====
section
/-! DEFINITION. The one flag computation of the block, that of `TST` (10_state.md R29, R30). -/

namespace Sys2Proof.Machine

/-- `FLAGS` after `TST` of `v`: bit 0 `Z`, bit 1 `N`, bit 2 `ODD`, bit 3 `ONE`
(10_state.md R29, 41_bitwise_predicates.md R148). -/
def flagsOf (v : Int) : BitVec 4 :=
  BitVec.ofBool (v == 1) ++ BitVec.ofBool (bit v 0) ++ BitVec.ofBool (decide (v < 0)) ++ BitVec.ofBool (v == 0)

end Sys2Proof.Machine
end

