-- ==== Sys2Proof/Config.lean ====
section
/-! DEFINITION. What an implementation fixes (00_scope.md R6) and the free values the spec leaves open
(00_scope.md R15, 93_implementation_defined.md). -/

namespace Sys2Proof

/-- Which function `BEZOUT` an instance has (00_scope.md R6, 42_modinv_gcd.md R165).
`euclid` is the default of R166; `lawful` is an arbitrary function that meets the law of R165 (log entry 4). -/
inductive BezoutChoice where
  | euclid
  | lawful
deriving DecidableEq, Repr

/-- The parameters of one instance (00_scope.md R6); `NREG` and `LIMBBITS` are fixed numbers, and `BUS` is
whatever delivers the host accesses in issue order. No command and no host access writes them. -/
structure Config where
  /-- `NLIMB`: limbs per register. -/
  nlimb : Nat
  /-- `BUFSZ`: bytes of the buffer `BUF`. -/
  bufsz : Nat
  /-- `BEZOUT`: the function choosing the pair that `XGCD` returns. -/
  bezout : BezoutChoice
deriving DecidableEq, Repr

/-- The default of every parameter (00_scope.md R6). -/
def Config.default : Config := { nlimb := 128, bufsz := 4096, bezout := .euclid }

/-- The legal ranges of the parameters (00_scope.md R6). -/
abbrev Config.Legal (c : Config) : Prop :=
  (2 ≤ c.nlimb ∧ c.nlimb ≤ 65535) ∧ (256 ≤ c.bufsz ∧ c.bufsz ≤ 65536 ∧ c.bufsz % 8 = 0)

/-- `W = LIMBBITS · NLIMB`, the register width in bits (00_scope.md R6). -/
def Config.width (c : Config) : Nat := limbBits * c.nlimb

/-- FREE VALUE (log entry 1): the byte that address `a` of `BUF` holds after the `n`-th reset while nothing has
written it (10_state.md R46, R48; 70_reset_and_hazards.md R323; 93_implementation_defined.md U3). -/
opaque Config.freeByte : Nat → Nat → Byte

/-- FREE VALUE (log entry 2): what the `n`-th host read with an unspecified result returns
(20_memory.md R66, R72; 93_implementation_defined.md U4, U5). -/
opaque Config.freeRead : Nat → Word

/-- FREE VALUE (log entry 4): which of the Bézout pairs of `(a, b) ≠ (0, 0)` a `lawful` instance returns: all of
them are `(u + k·b/g, v − k·a/g)` for one pair `(u, v)` and an integer `k` (42_modinv_gcd.md R164, R165). -/
opaque Config.bezoutShift : Int → Int → Int

/-- FREE VALUE (log entry 4): the pair a `lawful` instance returns for `(0, 0)`, where every pair meets the law. -/
opaque Config.bezoutAtZero : Int × Int

end Sys2Proof
end

