-- ==== Sys2Proof/Machine/State.lean ====
section
/-! DEFINITION. The state of one block and of its environment (10_state.md R20), and the state right after
reset (10_state.md R48). -/

namespace Sys2Proof.Machine

/-- The state of the sponge, `MODE`: 0 = absorb, 1 = squeeze (10_state.md R43). -/
inductive SpongeMode where
  | absorb
  | squeeze
deriving DecidableEq, Repr

/-- The ten causes of the block's one kind of trap (60_exceptions.md R284). -/
inductive Cause where
  | illegalCommand
  | invalidRegister
  | bufferBounds
  | spongeState
  | divideByZero
  | domainError
  | negativeUnsigned
  | notInvertible
  | encodeOverflow
  | rangeOverflow
deriving DecidableEq, Repr

/-- One access of the host: an offset from the block's base and a size in bytes (20_memory.md R66). The four
named accesses and every malformed one are among these. -/
inductive HostAccess where
  /-- Read `size` bytes at `off`. -/
  | read (off size : Nat)
  /-- Write the low `size` bytes of `v` at `off`. -/
  | write (off size : Nat) (v : Word)
deriving DecidableEq, Repr

/-- Whose turn it is (00_scope.md R13, 70_reset_and_hazards.md R320): the engine, the host, or the reset input. -/
inductive Turn where
  /-- The engine ends the pending command, if there is one (60_exceptions.md R281). -/
  | engine
  /-- The host performs one access. -/
  | host (a : HostAccess)
  /-- The reset input is asserted. -/
  | assertReset
  /-- The reset input is released. -/
  | releaseReset
deriving DecidableEq, Repr

/-- The written bytes of `BUF`: pairs of an address and a byte, addresses strictly rising (20_memory.md R61). An
address not listed has no written byte since the last reset. -/
abbrev Memory := List Host.Cell

/-- The canonical form of the buffer: addresses strictly rising. No entry equals what an unlisted address looks
up as, since that is no byte at all (log entry 1). -/
abbrev Memory.wf (m : Memory) : Prop := (m.map Prod.fst).Pairwise (· < ·)

/-- The whole state. The fields from `regs` to `buf` are those of 10_state.md R20; `cfg` holds the parameters of
the instance (00_scope.md R6); the others are the model's own. -/
structure State where
  /-- The parameters of the instance: no step writes them (log entry 3). -/
  cfg : Config
  /-- `R0..R15` with `VALID[0..15]`: `none` is a register whose valid bit is 0, which has no value (R21 to R23; log
  entry 6). -/
  regs : Vector (Option Int) 16
  /-- `FLAGS`: bit 0 `Z`, bit 1 `N`, bit 2 `ODD`, bit 3 `ONE` (R29). -/
  flags : BitVec 4
  /-- `SRES`, the scalar result register (R31). -/
  sres : BitVec 64
  /-- `STATUS.BUSY` (R34). -/
  busy : Bool
  /-- `STATUS.FAULT` (R34). -/
  fault : Bool
  /-- `STATUS.OVR` (R34). -/
  ovr : Bool
  /-- `STATUS.CAUSE` (R34). -/
  cause : BitVec 8
  /-- `STATUS.CMDCNT` (R27). -/
  cmdcnt : BitVec 32
  /-- `FINFO` (R36). -/
  finfo : BitVec 64
  /-- `PEND`, the pending command word, meaningful while `busy` (R49; log entry 8). -/
  pend : BitVec 64
  /-- `A[0..24]` (R40). -/
  lanes : Vector (BitVec 64) 25
  /-- `CAP` in bits (R41). -/
  cap : BitVec 11
  /-- `MODE` (R43). -/
  mode : SpongeMode
  /-- `POS` (R44). -/
  pos : BitVec 8
  /-- `BUF`: the bytes written since the last reset (R46). -/
  buf : Memory
  /-- The model's own: which draw of the unspecified bytes of `BUF` is in force (log entries 1, 16). -/
  bufDraw : Nat
  /-- The model's own: how many unspecified host reads have been answered (log entries 2, 16). -/
  readDraw : Nat
  /-- The model's own: whether the reset input is asserted (log entry 7). -/
  resetPin : Bool
  /-- The model's own: the turns to come, first one first (log entry 5). -/
  agenda : List Turn
  /-- The model's own: what the host's last read returned (log entry 17). -/
  hostData : Option Word
deriving DecidableEq, Repr

/-- Reasons for the machine to stop with a fault: none. The spec's fault is a defined state that the machine goes on
from (60_exceptions.md R280, R283, R298), and nothing in the spec is "stuck" (93_implementation_defined.md); no
step of the model stops, which is safe (log entry 14). -/
inductive Fault where
deriving DecidableEq, Repr

/-- Reasons to give an instruction no meaning. -/
inductive Refusal where
  /-- Raised by an arm of `exec` whose instruction has no meaning yet; safe. No arm raises it: all 32 commands are
  modelled. -/
  | notModelled (mnemonic : String)
deriving DecidableEq, Repr

/-- The state after reset (10_state.md R48, 70_reset_and_hazards.md R320), of an instance with the default
parameters (00_scope.md R6), with an idle environment. -/
def State.reset : State where
  cfg := Config.default
  regs := Vector.replicate 16 none
  flags := 0
  sres := 0
  busy := false
  fault := false
  ovr := false
  cause := 0
  cmdcnt := 0
  finfo := 0
  pend := 0
  lanes := Vector.replicate 25 0
  cap := 256
  mode := .absorb
  pos := 0
  buf := []
  bufDraw := 0
  readDraw := 0
  resetPin := false
  agenda := []
  hostData := none

end Sys2Proof.Machine
end

