-- ==== Sys2Proof/Machine/Memory.lean ====
section
/-! DEFINITION. The buffer `BUF` as data (20_memory.md R61): looking up, reading and writing bytes. -/

namespace Sys2Proof.Machine

/-- What is listed at an address: no byte where nothing has been written since the last reset. -/
def lookupByte : Memory → Nat → Option Byte
  | [], _ => none
  | (x, b) :: m, a => if x = a then some b else lookupByte m a

/-- The buffer with the byte `b` at address `a`, in canonical form. -/
def insertByte : Memory → Nat → Byte → Memory
  | [], a, b => [(a, b)]
  | (x, c) :: m, a, b =>
    if a < x then (a, b) :: (x, c) :: m
    else if a = x then (a, b) :: m
    else (x, c) :: insertByte m a b

/-- Bytes stored from `a` upward, the first at the lowest address: `MemWrite` (00_scope.md R11). -/
def insertBytes : Memory → Nat → List Byte → Memory
  | m, _, [] => m
  | m, a, b :: bs => insertBytes (insertByte m a b) (a + 1) bs

/-- The byte `BUF[a]`: the one written last, or, where nothing has been written since the last reset, the free byte
of this draw (10_state.md R46; 93_implementation_defined.md U3; log entry 1). -/
def readByte (s : State) (a : Nat) : Byte := (lookupByte s.buf a).getD (Config.freeByte s.bufDraw a)

/-- `MemRead(addr, n)`: `BUF[addr], …, BUF[addr+n−1]`, lowest address first (00_scope.md R11). -/
def readBytes (s : State) (addr n : Nat) : List Byte := (List.range n).map fun k => readByte s (addr + k)

end Sys2Proof.Machine
end

