-- ==== Sys2Proof/Machine/Operands.lean ====
section
/-! DEFINITION. The operand forms of the commands and the tests on them (00_scope.md R11; 30_encoding.md R93 to
R97; 60_exceptions.md R282). A test that fails answers the cause of the fault. -/

namespace Sys2Proof.Machine

/-- `if not p: raise c` (00_scope.md R11). -/
def require (p : Prop) [Decidable p] (c : Cause) : Except Cause Unit := if p then .ok () else .error c

/-- `inrange(v)`: `−2^(W−1) ≤ v ≤ 2^(W−1) − 1` (00_scope.md R10, 10_state.md R22). -/
abbrev InRange (c : Config) (v : Int) : Prop :=
  -((2 ^ (c.width - 1) : Nat) : Int) ≤ v ∧ v ≤ ((2 ^ (c.width - 1) : Nat) : Int) - 1

/-- The read `x[i]` of a source register: its value, or `InvalidRegister` while its valid bit is 0
(00_scope.md R11, 10_state.md R23). -/
def source (s : State) (r : Reg) : Except Cause Int :=
  match s.regs[r] with
  | some v => .ok v
  | none => .error .invalidRegister

/-- `sext_32(imm32)`, the operand of `LDI` (30_encoding.md R93). -/
def signedImm (imm : BitVec 32) : Int := imm.toInt

/-- `zext_32(imm32)`, the operand of `SHL`, `SHR`, `TBIT`, `KINIT` (30_encoding.md R94, R95). -/
def unsignedImm (imm : BitVec 32) : Nat := imm.toNat

/-- The range `[addr, addr + len)` lies in `BUF`; the sum does not wrap (20_memory.md R61, 60_exceptions.md R287). -/
abbrev InBuffer (s : State) (len addr : BitVec 16) : Prop := addr.toNat + len.toNat ≤ s.cfg.bufsz

/-- Whether `a · 2^n` is in range, told without forming the power: for `a ≠ 0` iff `bitlen(a) + n ≤ W − 1`
(41_bitwise_predicates.md R146; log entry 11). -/
abbrev ShiftFits (c : Config) (a : Int) (n : Nat) : Prop := a = 0 ∨ bitlen a + n ≤ c.width - 1

/-- A legal capacity: a multiple of 64 with `0 < c < 1600` (10_state.md R41, 45_keccak.md R240). -/
abbrev LegalCapacity (c : Nat) : Prop := 0 < c ∧ c < 1600 ∧ c % 64 = 0

end Sys2Proof.Machine
end

