-- ==== Sys2Proof/Machine/Ops.lean ====
section
/-! DEFINITION. The named operations that change the state (00_scope.md R11), completing a command and taking the
fault (60_exceptions.md R281, R283). There is no return from a fault (R298): only a reset ends it (Machine/Host.lean). -/

namespace Sys2Proof.Machine

/-- `x[i] <- v`: the register gets the value and its valid bit is set (00_scope.md R11, 10_state.md R23). -/
def writeReg (s : State) (r : Reg) (v : Int) : State := { s with regs := s.regs.set r (some v) }

/-- `FLAGS <- f` (00_scope.md R11). -/
def writeFlags (s : State) (f : BitVec 4) : State := { s with flags := f }

/-- `SRES <- v`, a non-negative value below `2^64` (00_scope.md R11, 10_state.md R31). -/
def writeSres (s : State) (v : Nat) : State := { s with sres := BitVec.ofNat 64 v }

/-- `MemWrite(addr, n, bytes)` (00_scope.md R11). -/
def writeBytes (s : State) (addr : Nat) (bytes : List Byte) : State :=
  { s with buf := insertBytes s.buf addr bytes }

/-- The numeric code of a cause (60_exceptions.md R284). -/
def Cause.code : Cause → BitVec 8
  | .illegalCommand => 1
  | .invalidRegister => 2
  | .bufferBounds => 3
  | .spongeState => 4
  | .divideByZero => 5
  | .domainError => 6
  | .negativeUnsigned => 7
  | .notInvertible => 8
  | .encodeOverflow => 9
  | .rangeOverflow => 10

/-- Fault entry: exactly what changes when the pending command faults (60_exceptions.md R283). -/
def enterFault (c : Cause) (s : State) : State :=
  { s with fault := true, cause := c.code, finfo := s.pend, busy := false }

/-- The end of a command that completes: `CMDCNT` counts it modulo `2^32` and `BUSY` clears
(10_state.md R27, 60_exceptions.md R281). -/
def complete (s : State) : State := { s with cmdcnt := s.cmdcnt + 1, busy := false }

/-- `EngineStep` after `Execute`: `Complete(effects)` applies them all, `Fault(F)` none (60_exceptions.md R281). The
second argument is what `Execute` answers in the state `s`: the state with the effects, or the cause. -/
def finish (s : State) : Except Cause State → Host.Outcome State Fault Refusal
  | .ok t => .next (complete t)
  | .error c => .next (enterFault c s)

end Sys2Proof.Machine
end

