-- ==== Sys2Proof/Machine/Arith.lean ====
section
/-! DEFINITION. The arithmetic commands: `ADD`, `SUB`, `NEG`, `MUL`, `DIVREM`, `MOD` (40_arith.md). -/

namespace Sys2Proof.Machine

/-- `ADD Rd, Ra, Rb` (40_arith.md R122). -/
def execAdd (rd ra rb : Reg) (s : State) : Host.Outcome State Fault Refusal :=
  finish s do
    let a ← source s ra
    let b ← source s rb
    require (InRange s.cfg (a + b)) .rangeOverflow
    return writeReg s rd (a + b)

/-- `SUB Rd, Ra, Rb` (R123). -/
def execSub (rd ra rb : Reg) (s : State) : Host.Outcome State Fault Refusal :=
  finish s do
    let a ← source s ra
    let b ← source s rb
    require (InRange s.cfg (a - b)) .rangeOverflow
    return writeReg s rd (a - b)

/-- `NEG Rd, Ra` (R124). -/
def execNeg (rd ra : Reg) (s : State) : Host.Outcome State Fault Refusal :=
  finish s do
    let a ← source s ra
    require (InRange s.cfg (-a)) .rangeOverflow
    return writeReg s rd (-a)

/-- `MUL Rd, Ra, Rb` (R125). -/
def execMul (rd ra rb : Reg) (s : State) : Host.Outcome State Fault Refusal :=
  finish s do
    let a ← source s ra
    let b ← source s rb
    require (InRange s.cfg (a * b)) .rangeOverflow
    return writeReg s rd (a * b)

/-- `DIVREM Rq, Rr, Ra, Rb` (R126): the quotient in `rd`, the remainder in `rc`. The first test is the decoder's
(30_encoding.md R100), repeated for a term that no word decodes to (log entry 9). -/
def execDivrem (rd rc ra rb : Reg) (s : State) : Host.Outcome State Fault Refusal :=
  finish s do
    require (rd ≠ rc) .illegalCommand
    let a ← source s ra
    let b ← source s rb
    require (b ≠ 0) .divideByZero
    require (InRange s.cfg (tdiv a b)) .rangeOverflow
    return writeReg (writeReg s rd (tdiv a b)) rc (trem a b)

/-- `MOD Rd, Ra, Rb` (R127). -/
def execMod (rd ra rb : Reg) (s : State) : Host.Outcome State Fault Refusal :=
  finish s do
    let a ← source s ra
    let m ← source s rb
    require (m ≠ 0) .divideByZero
    return writeReg s rd (emod a m)

end Sys2Proof.Machine
end

