-- ==== Sys2Proof/Machine/Bitwise.lean ====
section
/-! DEFINITION. The bitwise, shift and predicate commands (41_bitwise_predicates.md). -/

namespace Sys2Proof.Machine

/-- `AND Rd, Ra, Rb` (41_bitwise_predicates.md R142). -/
def execAnd (rd ra rb : Reg) (s : State) : Host.Outcome State Fault Refusal :=
  finish s do
    let a ← source s ra
    let b ← source s rb
    return writeReg s rd (bitwiseAnd a b)

/-- `OR Rd, Ra, Rb` (R143). -/
def execOr (rd ra rb : Reg) (s : State) : Host.Outcome State Fault Refusal :=
  finish s do
    let a ← source s ra
    let b ← source s rb
    return writeReg s rd (bitwiseOr a b)

/-- `XOR Rd, Ra, Rb` (R144). -/
def execXor (rd ra rb : Reg) (s : State) : Host.Outcome State Fault Refusal :=
  finish s do
    let a ← source s ra
    let b ← source s rb
    return writeReg s rd (bitwiseXor a b)

/-- `NOT Rd, Ra` (R145). -/
def execNot (rd ra : Reg) (s : State) : Host.Outcome State Fault Refusal :=
  finish s do
    let a ← source s ra
    return writeReg s rd (bitwiseNot a)

/-- `SHL Rd, Ra, n` (R146); `ShiftFits` is the rule's own form of the range test (log entry 11). -/
def execShl (rd ra : Reg) (n : BitVec 32) (s : State) : Host.Outcome State Fault Refusal :=
  finish s do
    let a ← source s ra
    require (ShiftFits s.cfg a (unsignedImm n)) .rangeOverflow
    return writeReg s rd (shiftLeft a (unsignedImm n))

/-- `SHR Rd, Ra, n` (R147). -/
def execShr (rd ra : Reg) (n : BitVec 32) (s : State) : Host.Outcome State Fault Refusal :=
  finish s do
    let a ← source s ra
    return writeReg s rd (shiftRight a (unsignedImm n))

/-- `TST Ra` (R148). -/
def execTst (ra : Reg) (s : State) : Host.Outcome State Fault Refusal :=
  finish s do
    let v ← source s ra
    return writeFlags s (flagsOf v)

/-- `TBIT Ra, i` (R149). -/
def execTbit (ra : Reg) (i : BitVec 32) (s : State) : Host.Outcome State Fault Refusal :=
  finish s do
    let v ← source s ra
    return writeSres s (bit v (unsignedImm i)).toNat

/-- `BITLEN Ra` (R150). -/
def execBitlen (ra : Reg) (s : State) : Host.Outcome State Fault Refusal :=
  finish s do
    let v ← source s ra
    return writeSres s (bitlen v)

/-- `CTZ Ra` (R151). -/
def execCtz (ra : Reg) (s : State) : Host.Outcome State Fault Refusal :=
  finish s do
    let v ← source s ra
    require (0 < v) .domainError
    return writeSres s (ctz v)

end Sys2Proof.Machine
end

