-- ==== Sys2Proof/Machine/Euclid.lean ====
section
/-! DEFINITION. The parameter `BEZOUT` and the modular inverse (42_modinv_gcd.md R160, R165, R166). -/

namespace Sys2Proof.Machine

/-- The loop of `BEZOUT_default` with its normalisation (42_modinv_gcd.md R166): the coefficients `(u, v)` at its
end. `|r1|` strictly decreases, so `|r1| + 1` passes suffice. -/
def euclidLoop : Nat → Int → Int → Int → Int → Int → Int → Int × Int
  | 0, r0, _, s0, _, t0, _ => if r0 < 0 then (-s0, -t0) else (s0, t0)
  | fuel + 1, r0, r1, s0, s1, t0, t1 =>
    if r1 = 0 then (if r0 < 0 then (-s0, -t0) else (s0, t0))
    else
      let q := tdiv r0 r1
      euclidLoop fuel r1 (r0 - q * r1) s1 (s0 - q * s1) t1 (t0 - q * t1)

/-- `BEZOUT_default`: extended Euclid with truncated quotients (42_modinv_gcd.md R166). -/
def bezoutDefault (a b : Int) : Int × Int := euclidLoop (b.natAbs + 1) a b 1 0 0 1

/-- An arbitrary function that meets the law of 42_modinv_gcd.md R165, whatever the free values are (log entry 4). -/
def bezoutLawful (a b : Int) : Int × Int :=
  if a = 0 ∧ b = 0 then Config.bezoutAtZero
  else
    let p := bezoutDefault a b
    let k := Config.bezoutShift a b
    (p.1 + k * (b / gcdInt a b), p.2 - k * (a / gcdInt a b))

/-- The instance's `BEZOUT` (42_modinv_gcd.md R165). -/
def bezout (c : Config) (a b : Int) : Int × Int :=
  match c.bezout with
  | .euclid => bezoutDefault a b
  | .lawful => bezoutLawful a b

/-- `inv(a, m)` for `m ≥ 1` and `gcd(a, m) = 1`: the `y` in `[0, m)` with `a·y ≡ 1 (mod m)`
(42_modinv_gcd.md R160). It is a Bézout coefficient, reduced (log entry 12). -/
def inverseMod (a m : Int) : Int := emod (bezoutDefault (emod a m) m).1 m

end Sys2Proof.Machine
end

