-- ==== Sys2Proof/Machine/ModPow.lean ====
section
/-! DEFINITION. The modular power (43_modpow.md R180), computed by binary exponentiation. -/

namespace Sys2Proof.Machine

/-- The exponent scan from bit `k − 1` down to bit 0: square, then multiply where the bit is 1
(43_modpow.md R190, R192). -/
def scanExponent (mul : Nat → Nat → Nat) (base e : Nat) : Nat → Nat → Nat
  | 0, acc => acc
  | k + 1, acc =>
    let sq := mul acc acc
    scanExponent mul base e k (if e.testBit k then mul sq base else sq)

/-- Left-to-right binary exponentiation with a given product and one (43_modpow.md R190, R192). -/
def binaryPower (mul : Nat → Nat → Nat) (one base e : Nat) : Nat := scanExponent mul base e (bitlenNat e) one

/-- `base^e mod M`, by binary exponentiation modulo `M`. -/
def powerMod (base e M : Nat) : Nat := binaryPower (fun x y => x * y % M) (1 % M) (base % M) e

/-- `mpow(a, e, m)` for `m ≠ 0`, with `M = |m|` (43_modpow.md R180; log entry 12). -/
def mpow (a e m : Int) : Int :=
  let M := m.natAbs
  if M = 1 then 0
  else if 0 ≤ e then (powerMod (emod a M).toNat e.toNat M : Int)
  else (powerMod (inverseMod a M).toNat (-e).toNat M : Int)

end Sys2Proof.Machine
end

