-- ==== Sys2Proof/Machine/Modular.lean ====
section
/-! DEFINITION. The modular commands: `MODINV`, `GCD`, `XGCD` (42_modinv_gcd.md) and `MODPOW` (43_modpow.md). -/

namespace Sys2Proof.Machine

/-- `MODINV Rd, Ra, Rb` (42_modinv_gcd.md R162). -/
def execModinv (rd ra rb : Reg) (s : State) : Host.Outcome State Fault Refusal :=
  finish s do
    let a ← source s ra
    let m ← source s rb
    require (0 < m) .domainError
    require (gcdInt a m = 1) .notInvertible
    return writeReg s rd (inverseMod a m)

/-- `GCD Rd, Ra, Rb` (R163). -/
def execGcd (rd ra rb : Reg) (s : State) : Host.Outcome State Fault Refusal :=
  finish s do
    let a ← source s ra
    let b ← source s rb
    require (InRange s.cfg (gcdInt a b)) .rangeOverflow
    return writeReg s rd (gcdInt a b)

/-- `XGCD Rg, Ru, Rv, Ra, Rb` (R164): `g` in `rd`, `u` in `rc`, `v` in `re`. The first test is the decoder's
(30_encoding.md R100), repeated for a term that no word decodes to (log entry 9). -/
def execXgcd (rd rc re ra rb : Reg) (s : State) : Host.Outcome State Fault Refusal :=
  finish s do
    require (rd ≠ rc ∧ rd ≠ re ∧ rc ≠ re) .illegalCommand
    let a ← source s ra
    let b ← source s rb
    let p := bezout s.cfg a b
    require (InRange s.cfg (gcdInt a b) ∧ InRange s.cfg p.1 ∧ InRange s.cfg p.2) .rangeOverflow
    return writeReg (writeReg (writeReg s rd (gcdInt a b)) rc p.1) re p.2

/-- `MODPOW Rd, Ra, Rb, Rc` (43_modpow.md R182). -/
def execModpow (rd ra rb rc : Reg) (s : State) : Host.Outcome State Fault Refusal :=
  finish s do
    let a ← source s ra
    let e ← source s rb
    let m ← source s rc
    require (m ≠ 0) .divideByZero
    require (m.natAbs = 1 ∨ 0 ≤ e ∨ gcdInt a m = 1) .notInvertible
    return writeReg s rd (mpow a e m)

end Sys2Proof.Machine
end

