-- ==== Sys2Proof/Machine/Codec.lean ====
section
/-! DEFINITION. The four integer encodings (44_moves_encoding.md R210 to R212, R218; 20_memory.md R62). -/

namespace Sys2Proof.Machine

/-- `mode[1]`: two's complement (30_encoding.md R91). -/
def isSigned : Codec → Bool
  | .ube => false
  | .ule => false
  | .sbe => true
  | .sle => true

/-- `mode[0]`: little-endian (30_encoding.md R91). -/
def isLittle : Codec → Bool
  | .ube => false
  | .ule => true
  | .sbe => false
  | .sle => true

/-- `dec_ule(s) = Σ s[k]·256^k` (44_moves_encoding.md R210). -/
def decodeLE : List Byte → Nat
  | [] => 0
  | b :: bs => b.toNat + 256 * decodeLE bs

/-- `dec_ube(s) = Σ s[k]·256^(n−1−k)` (44_moves_encoding.md R210). -/
def decodeBE (bs : List Byte) : Nat := decodeLE bs.reverse

/-- The two's-complement reading of `n` bytes whose unsigned reading is `u` and whose most significant byte is
`top` (none for the empty string) (44_moves_encoding.md R211). -/
def signedReading (u n : Nat) (top : Option Byte) : Int :=
  if 0x80 ≤ (top.getD 0).toNat then (u : Int) - ((256 ^ n : Nat) : Int) else u

/-- The reading of a byte string in a mode (44_moves_encoding.md R210, R211). -/
def decodeBytes (m : Codec) (bs : List Byte) : Int :=
  match m with
  | .ube => decodeBE bs
  | .ule => decodeLE bs
  | .sbe => signedReading (decodeBE bs) bs.length bs.head?
  | .sle => signedReading (decodeLE bs) bs.length bs.getLast?

/-- `minlen_u(v) = ceil(bitlen(v) / 8)` (44_moves_encoding.md R212). -/
def minlenUnsigned (v : Int) : Nat := (bitlen v + 7) / 8

/-- `minlen_s(v) = floor(bitlen(v) / 8) + 1` (44_moves_encoding.md R212). -/
def minlenSigned (v : Int) : Nat := bitlen v / 8 + 1

/-- The minimal length in a mode (44_moves_encoding.md R212, R216, R217). -/
def minlen (m : Codec) (v : Int) : Nat := if isSigned m then minlenSigned v else minlenUnsigned v

/-- `enc_le(v, n)[k] = (u >> (8·k)) and 0xFF` with `u = v mod 256^n` (44_moves_encoding.md R218). -/
def encodeLE (v : Int) (n : Nat) : List Byte :=
  let u := (v % ((256 ^ n : Nat) : Int)).toNat
  (List.range n).map fun k => BitVec.ofNat 8 (u >>> (8 * k))

/-- `enc_be(v, n)[k] = (u >> (8·(n−1−k))) and 0xFF` with `u = v mod 256^n` (44_moves_encoding.md R218). -/
def encodeBE (v : Int) (n : Nat) : List Byte :=
  let u := (v % ((256 ^ n : Nat) : Int)).toNat
  (List.range n).map fun k => BitVec.ofNat 8 (u >>> (8 * (n - 1 - k)))

/-- The `n` bytes of `v` in a mode (44_moves_encoding.md R216, R218). -/
def encodeBytes (m : Codec) (v : Int) (n : Nat) : List Byte :=
  if isLittle m then encodeLE v n else encodeBE v n

end Sys2Proof.Machine
end

