-- ==== Sys2Proof/Machine/Moves.lean ====
section
/-! DEFINITION. Moves and the byte codec: `LDI`, `MOV`, `LD`, `ST`, `ENCLEN` (44_moves_encoding.md). -/

namespace Sys2Proof.Machine

/-- `LDI Rd, imm` (44_moves_encoding.md R213). -/
def execLdi (rd : Reg) (imm : BitVec 32) (s : State) : Host.Outcome State Fault Refusal :=
  finish s (.ok (writeReg s rd (signedImm imm)))

/-- `MOV Rd, Ra` (R214). -/
def execMov (rd ra : Reg) (s : State) : Host.Outcome State Fault Refusal :=
  finish s do
    let a ← source s ra
    return writeReg s rd a

/-- `LD.<mode> Rd, [addr], len` (R215). -/
def execLd (rd : Reg) (mode : Codec) (len addr : BitVec 16) (s : State) : Host.Outcome State Fault Refusal :=
  finish s do
    require (InBuffer s len addr) .bufferBounds
    let v := decodeBytes mode (readBytes s addr.toNat len.toNat)
    require (InRange s.cfg v) .rangeOverflow
    return writeReg s rd v

/-- `ST.<mode> Ra, [addr], len` (R216). With `len = 0` in a signed mode it faults with `EncodeOverflow` even for the value 0,
by R216, although R219 says that the empty string, too, is stored back: the model's choice (log entry 21). -/
def execSt (ra : Reg) (mode : Codec) (len addr : BitVec 16) (s : State) : Host.Outcome State Fault Refusal :=
  finish s do
    let v ← source s ra
    require (InBuffer s len addr) .bufferBounds
    require (isSigned mode = true ∨ 0 ≤ v) .negativeUnsigned
    require (minlen mode v ≤ len.toNat) .encodeOverflow
    return writeBytes s addr.toNat (encodeBytes mode v len.toNat)

/-- `ENCLEN.<mode> Ra` (R217). -/
def execEnclen (ra : Reg) (mode : Codec) (s : State) : Host.Outcome State Fault Refusal :=
  finish s do
    let v ← source s ra
    require (isSigned mode = true ∨ 0 ≤ v) .negativeUnsigned
    return writeSres s (minlen mode v)

end Sys2Proof.Machine
end

