-- ==== Sys2Proof/Machine/Keccak.lean ====
section
/-! DEFINITION. The permutation Keccak-f[1600] (45_keccak.md R230 to R233) and the byte view of the lanes
(10_state.md R45). -/

namespace Sys2Proof.Machine

/-- The lane `A[x + 5·y]`, `x` and `y` modulo 5 (45_keccak.md R231). -/
def lane (A : Lanes) (x y : Nat) : Word := A[x % 5 + 5 * (y % 5)]'(by omega)

/-- The 25 lanes whose lane `x + 5·y` is `f x y`. -/
def lanesOf (f : Nat → Nat → Word) : Lanes :=
  #v[f 0 0, f 1 0, f 2 0, f 3 0, f 4 0,
      f 0 1, f 1 1, f 2 1, f 3 1, f 4 1,
      f 0 2, f 1 2, f 2 2, f 3 2, f 4 2,
      f 0 3, f 1 3, f 2 3, f 3 3, f 4 3,
      f 0 4, f 1 4, f 2 4, f 3 4, f 4 4]

/-- `C[x]`, the parity of column `x` (45_keccak.md R231, θ). -/
def columnParity (A : Lanes) (x : Nat) : Word :=
  lane A x 0 ^^^ lane A x 1 ^^^ lane A x 2 ^^^ lane A x 3 ^^^ lane A x 4

/-- `θ` (45_keccak.md R231): `D[x] = C[(x+4) mod 5] xor rotl(C[(x+1) mod 5], 1)`. -/
def theta (A : Lanes) : Lanes :=
  let C : Vector Word 5 := #v[columnParity A 0, columnParity A 1, columnParity A 2, columnParity A 3, columnParity A 4]
  let D : Vector Word 5 := #v[C[4] ^^^ C[1].rotateLeft 1, C[0] ^^^ C[2].rotateLeft 1, C[1] ^^^ C[3].rotateLeft 1,
    C[2] ^^^ C[4].rotateLeft 1, C[3] ^^^ C[0].rotateLeft 1]
  lanesOf fun x y => lane A x y ^^^ D[x % 5]'(Nat.mod_lt x (by decide))

/-- The rotation offsets by lane index `x + 5·y` (45_keccak.md R232). -/
def rotationOffsets : Vector Nat 25 :=
  #v[0, 1, 62, 28, 27, 36, 44, 6, 55, 20, 3, 10, 43, 25, 39, 41, 45, 15, 21, 8, 18, 2, 61, 56, 14]

/-- `ROT[x][y]` (45_keccak.md R232). -/
def rotation (x y : Nat) : Nat := rotationOffsets[x % 5 + 5 * (y % 5)]'(by omega)

/-- `ρ` and `π` (45_keccak.md R231): `B[y + 5·((2x + 3y) mod 5)] = rotl(A[x + 5y], ROT[x][y])`, read backwards: the
lane at column `X`, row `Y` comes from `x = (X + 3Y) mod 5`, `y = X`. -/
def rhoPi (A : Lanes) : Lanes := lanesOf fun X Y => (lane A (X + 3 * Y) X).rotateLeft (rotation (X + 3 * Y) X)

/-- `χ` (45_keccak.md R231). -/
def chi (B : Lanes) : Lanes := lanesOf fun x y => lane B x y ^^^ (~~~ (lane B (x + 1) y) &&& lane B (x + 2) y)

/-- `ι` (45_keccak.md R231). -/
def iota (rc : Word) (A : Lanes) : Lanes := A.set 0 (A[0] ^^^ rc)

/-- `Round(A, rc)` (45_keccak.md R231). -/
def keccakRound (A : Lanes) (rc : Word) : Lanes := iota rc (chi (rhoPi (theta A)))

/-- The table of 45_keccak.md R233, row by row: row `i` gives `RC[i]` and `RC[i + 12]`. -/
def roundConstantTable : List (Word × Word) :=
  [(0x0000000000000001, 0x000000008000808B), (0x0000000000008082, 0x800000000000008B),
   (0x800000000000808A, 0x8000000000008089), (0x8000000080008000, 0x8000000000008003),
   (0x000000000000808B, 0x8000000000008002), (0x0000000080000001, 0x8000000000000080),
   (0x8000000080008081, 0x000000000000800A), (0x8000000000008009, 0x800000008000000A),
   (0x000000000000008A, 0x8000000080008081), (0x0000000000000088, 0x8000000000008080),
   (0x0000000080008009, 0x0000000080000001), (0x000000008000000A, 0x8000000080008008)]

/-- `RC[0..23]`: the table's left column, then its right column (45_keccak.md R233). -/
def roundConstants : List Word := roundConstantTable.map Prod.fst ++ roundConstantTable.map Prod.snd

/-- `KeccakF`: the 24 rounds in order (45_keccak.md R230). -/
def keccakF (A : Lanes) : Lanes := roundConstants.foldl keccakRound A

/-- `SB(j)`: state byte `j`, bits `8·(j mod 8) + 7 .. 8·(j mod 8)` of lane `floor(j/8)` (10_state.md R45). There are
200 state bytes; beyond them there is none, and this answers 0 where no invariant state asks (log entry 20). -/
def stateByte (A : Lanes) (j : Nat) : Byte := ((A[j / 8]?.getD 0) >>> (8 * (j % 8))).setWidth 8

/-- `XB(j, b)`: the byte `b` XORed into state byte `j` (10_state.md R45); nothing beyond the 200 state bytes. -/
def xorByte (A : Lanes) (j : Nat) (b : Byte) : Lanes :=
  A.setIfInBounds (j / 8) ((A[j / 8]?.getD 0) ^^^ (b.setWidth 64 <<< (8 * (j % 8))))

end Sys2Proof.Machine
end

