-- ==== Sys2Proof/Machine/Sponge.lean ====
section
/-! DEFINITION. The sponge commands (45_keccak.md R236 to R245). -/

namespace Sys2Proof.Machine

/-- `RATE = 200 − CAP/8` bytes (10_state.md R42). -/
def rate (s : State) : Nat := 200 - s.cap.toNat / 8

/-- The sponge unit's lanes, mode and position, written by one command (log entry 20). -/
def writeSponge (s : State) (A : Lanes) (mode : SpongeMode) (pos : Nat) : State :=
  { s with lanes := A, mode := mode, pos := BitVec.ofNat 8 pos }

/-- One byte absorbed at position `p`; the permutation runs as soon as the block is full (45_keccak.md R242). -/
def absorbByte (r : Nat) (st : Lanes × Nat) (b : Byte) : Lanes × Nat :=
  let A := xorByte st.1 st.2 b
  if st.2 + 1 = r then (keccakF A, 0) else (A, st.2 + 1)

/-- The loop of `KABS` over its bytes (45_keccak.md R242). -/
def absorb (r : Nat) (st : Lanes × Nat) (bytes : List Byte) : Lanes × Nat := bytes.foldl (absorbByte r) st

/-- The loop of `KSQZ`: the bytes delivered, and the lanes and position it ends with. The permutation runs only when a
byte beyond the block is asked for (45_keccak.md R244). -/
def squeeze (r : Nat) : Nat → Lanes × Nat → List Byte × (Lanes × Nat)
  | 0, st => ([], st)
  | n + 1, st =>
    let st' := if st.2 = r then (keccakF st.1, 0) else st
    let rest := squeeze r n (st'.1, st'.2 + 1)
    (stateByte st'.1 st'.2 :: rest.1, rest.2)

/-- The domain byte of `KFLIP` (45_keccak.md R243). -/
def domainByte (shake : Bool) : Byte := if shake then 0x1F else 0x06

/-- The padded state of `KFLIP`: the domain byte at the position, then `0x80` into the last byte of the rate portion
(45_keccak.md R243). -/
def padState (A : Lanes) (pos r : Nat) (shake : Bool) : Lanes :=
  xorByte (xorByte A pos (domainByte shake)) (r - 1) 0x80

/-- `KINIT c` (45_keccak.md R240). -/
def execKinit (c : BitVec 32) (s : State) : Host.Outcome State Fault Refusal :=
  finish s do
    require (LegalCapacity (unsignedImm c)) .domainError
    return { writeSponge s (Vector.replicate 25 0) .absorb 0 with cap := BitVec.ofNat 11 (unsignedImm c) }

/-- `KRESET` (R241). -/
def execKreset (s : State) : Host.Outcome State Fault Refusal :=
  finish s (.ok (writeSponge s (Vector.replicate 25 0) .absorb 0))

/-- `KABS [addr], len` (R242). -/
def execKabs (len addr : BitVec 16) (s : State) : Host.Outcome State Fault Refusal :=
  finish s do
    require (InBuffer s len addr) .bufferBounds
    require (s.mode = .absorb) .spongeState
    let st := absorb (rate s) (s.lanes, s.pos.toNat) (readBytes s addr.toNat len.toNat)
    return writeSponge s st.1 .absorb st.2

/-- `KFLIP.SHAKE` / `KFLIP.SHA3` (R243). -/
def execKflip (shake : Bool) (s : State) : Host.Outcome State Fault Refusal :=
  finish s do
    require (s.mode = .absorb) .spongeState
    return writeSponge s (keccakF (padState s.lanes s.pos.toNat (rate s) shake)) .squeeze 0

/-- `KSQZ [addr], len` (R244). -/
def execKsqz (len addr : BitVec 16) (s : State) : Host.Outcome State Fault Refusal :=
  finish s do
    require (InBuffer s len addr) .bufferBounds
    require (s.mode = .squeeze) .spongeState
    let out := squeeze (rate s) len.toNat (s.lanes, s.pos.toNat)
    return writeBytes (writeSponge s out.2.1 .squeeze out.2.2) addr.toNat out.1

/-- `KPERM` (R245). -/
def execKperm (s : State) : Host.Outcome State Fault Refusal :=
  finish s (.ok { s with lanes := keccakF s.lanes })

end Sys2Proof.Machine
end

