-- ==== Sys2Proof/Machine/System.lean ====
section
/-! DEFINITION. The system command (46_system.md). -/

namespace Sys2Proof.Machine

/-- `NOP`: nothing but the count (46_system.md R270). -/
def execNop (s : State) : Host.Outcome State Fault Refusal := finish s (.ok s)

end Sys2Proof.Machine
end

