-- ==== Sys2Proof/Machine/Dispatch.lean ====
section
/-! DEFINITION. One arm per command: the engine's step with that command (60_exceptions.md R281, R282). -/

namespace Sys2Proof.Machine

/-- The engine's step with the decoded command `i` in the state `s`: its effects and the count, or the fault. -/
def exec (i : Instr) (s : State) : Host.Outcome State Fault Refusal :=
  match i with
  | .nop => Sys2Proof.Machine.execNop s
  | .ldi rd imm => Sys2Proof.Machine.execLdi rd imm s
  | .mov rd ra => Sys2Proof.Machine.execMov rd ra s
  | .ld rd mode len addr => Sys2Proof.Machine.execLd rd mode len addr s
  | .st ra mode len addr => Sys2Proof.Machine.execSt ra mode len addr s
  | .enclen ra mode => Sys2Proof.Machine.execEnclen ra mode s
  | .add rd ra rb => Sys2Proof.Machine.execAdd rd ra rb s
  | .sub rd ra rb => Sys2Proof.Machine.execSub rd ra rb s
  | .neg rd ra => Sys2Proof.Machine.execNeg rd ra s
  | .mul rd ra rb => Sys2Proof.Machine.execMul rd ra rb s
  | .divrem rd rc ra rb => Sys2Proof.Machine.execDivrem rd rc ra rb s
  | .mod rd ra rb => Sys2Proof.Machine.execMod rd ra rb s
  | .and rd ra rb => Sys2Proof.Machine.execAnd rd ra rb s
  | .or rd ra rb => Sys2Proof.Machine.execOr rd ra rb s
  | .xor rd ra rb => Sys2Proof.Machine.execXor rd ra rb s
  | .not rd ra => Sys2Proof.Machine.execNot rd ra s
  | .shl rd ra n => Sys2Proof.Machine.execShl rd ra n s
  | .shr rd ra n => Sys2Proof.Machine.execShr rd ra n s
  | .tst ra => Sys2Proof.Machine.execTst ra s
  | .tbit ra k => Sys2Proof.Machine.execTbit ra k s
  | .bitlen ra => Sys2Proof.Machine.execBitlen ra s
  | .ctz ra => Sys2Proof.Machine.execCtz ra s
  | .modinv rd ra rb => Sys2Proof.Machine.execModinv rd ra rb s
  | .gcd rd ra rb => Sys2Proof.Machine.execGcd rd ra rb s
  | .xgcd rd rc re ra rb => Sys2Proof.Machine.execXgcd rd rc re ra rb s
  | .modpow rd ra rb rc => Sys2Proof.Machine.execModpow rd ra rb rc s
  | .kinit c => Sys2Proof.Machine.execKinit c s
  | .kreset => Sys2Proof.Machine.execKreset s
  | .kabs len addr => Sys2Proof.Machine.execKabs len addr s
  | .kflip shake => Sys2Proof.Machine.execKflip shake s
  | .ksqz len addr => Sys2Proof.Machine.execKsqz len addr s
  | .kperm => Sys2Proof.Machine.execKperm s

end Sys2Proof.Machine
end

