-- ==== Sys2Proof/Machine/Host.lean ====
section
/-! DEFINITION. The host's side: the register map (10_state.md R32 to R39), the host accesses (20_memory.md R66,
R72), the two resets (70_reset_and_hazards.md R320, R321) and the canonical sequence for one command (R331). -/

namespace Sys2Proof.Machine

/-- `STATUS` (10_state.md R34): `CMDCNT[63:32]`, `CAUSE[15:8]`, `OVR[2]`, `FAULT[1]`, `BUSY[0]`. -/
def statusWord (s : State) : Word :=
  s.cmdcnt ++ (0 : BitVec 16) ++ s.cause ++ (0 : BitVec 5) ++ BitVec.ofBool s.ovr ++ BitVec.ofBool s.fault ++
    BitVec.ofBool s.busy

/-- The `MODE` bit (10_state.md R43). -/
def SpongeMode.bit : SpongeMode → BitVec 1
  | .absorb => 0
  | .squeeze => 1

/-- `KCFG` (10_state.md R37): `POS[31:24]`, `MODE[16]`, `CAP[10:0]`. -/
def kcfgWord (s : State) : Word :=
  (0 : BitVec 32) ++ s.pos ++ (0 : BitVec 7) ++ s.mode.bit ++ (0 : BitVec 5) ++ s.cap

/-- `ID` (10_state.md R38): `VERSION[63:56] = 1`, `NREG[55:48]`, `BUFSZ[47:16]`, `NLIMB[15:0]`. -/
def idWord (s : State) : Word :=
  (1 : BitVec 8) ++ BitVec.ofNat 8 numRegs ++ BitVec.ofNat 32 s.cfg.bufsz ++ BitVec.ofNat 16 s.cfg.nlimb

/-- What an idle block returns for a 64-bit read at a register offset (10_state.md R32): the write-only and the
reserved offsets read 0. -/
def registerWord (s : State) (off : Nat) : Word :=
  if off = 0x008 then statusWord s
  else if off = 0x010 then s.flags.setWidth 64
  else if off = 0x018 then s.sres
  else if off = 0x028 then s.finfo
  else if off = 0x030 then kcfgWord s
  else if off = 0x038 then idWord s
  else if 0x100 ≤ off ∧ off ≤ 0x1C0 then s.lanes[(off - 0x100) / 8]?.getD 0
  else 0

/-- What an access reaches (20_memory.md R66). -/
inductive Target where
  /-- The register, or the reserved offset, at `off`, whole (`HostReadReg`, `HostWriteReg`). -/
  | register (off : Nat)
  /-- `n` bytes of the buffer from `a` (`HostReadBuf`, `HostWriteBuf`). -/
  | buffer (a n : Nat)
  /-- None of the four accesses of R66. -/
  | malformed
deriving DecidableEq, Repr

/-- Which of the accesses of 20_memory.md R66 an offset and a size in bytes are. An aligned 64-bit access between the
end of `BUF` and `0x20000` is one to a reserved offset (10_state.md R32; log entry 10). -/
def targetOf (c : Config) (off size : Nat) : Target :=
  if 0x20000 ≤ off then .malformed
  else if 0x10000 ≤ off ∧ off - 0x10000 < c.bufsz then
    if (size = 1 ∨ size = 2 ∨ size = 4 ∨ size = 8) ∧ (off - 0x10000) % size = 0 ∧ off - 0x10000 + size ≤ c.bufsz then
      .buffer (off - 0x10000) size
    else .malformed
  else if size = 8 ∧ off % 8 = 0 then .register off
  else .malformed

/-- The data of `HostReadBuf(a, n)`: byte `BUF[a+k]` is bits `8k+7 .. 8k` (20_memory.md R66). -/
def bufferWord (s : State) (a n : Nat) : Word :=
  (readBytes s a n).foldr (fun b w => (w <<< 8) ||| b.setWidth 64) 0

/-- The bytes of `HostWriteBuf(a, n, v)`: `v[8k+7 : 8k]` for `k = 0..n−1` (20_memory.md R66). -/
def wordBytes (v : Word) (n : Nat) : List Byte := (List.range n).map fun k => (v >>> (8 * k)).setWidth 8

/-- The host's read returns `v`. -/
def answerRead (v : Word) (s : State) : State := { s with hostData := some v }

/-- The host's read of `size` bytes returns an unspecified value, drawn anew for each read (20_memory.md R66, R72;
93_implementation_defined.md U4, U5; log entry 2). -/
def answerUnspecified (size : Nat) (s : State) : State :=
  { s with
    hostData := some (BitVec.ofNat 64 ((Config.freeRead s.readDraw).toNat % 2 ^ (8 * size)))
    readDraw := s.readDraw + 1 }

/-- A host read (20_memory.md R66, R72). While the reset input is asserted no access is accepted
(70_reset_and_hazards.md R320; log entry 7). -/
def hostRead (off size : Nat) (s : State) : State :=
  if s.resetPin then answerUnspecified size s
  else
    match targetOf s.cfg off size with
    | .malformed => answerUnspecified size s
    | .register off =>
      if s.busy ∧ off ≠ 0x008 then answerUnspecified size s else answerRead (registerWord s off) s
    | .buffer a n => if s.busy then answerUnspecified size s else answerRead (bufferWord s a n) s

/-- Both resets leave every piece of the block's state at its reset value, draw the bytes of `BUF` anew and keep the
parameters and the environment (10_state.md R48; 70_reset_and_hazards.md R320, R321; log entry 19). -/
def resetBlock (s : State) : State :=
  { State.reset with
    cfg := s.cfg
    bufDraw := s.bufDraw + 1
    readDraw := s.readDraw
    resetPin := s.resetPin
    agenda := s.agenda
    hostData := s.hostData }

/-- A write of `CMD` to a block that is not busy: accepted, or dropped while `FAULT = 1` (10_state.md R33). -/
def acceptCommand (v : Word) (s : State) : State :=
  if s.fault then s else { s with pend := v, busy := true }

/-- A write dropped because the block is busy (20_memory.md R72, 10_state.md R33). -/
def dropBusy (s : State) : State := { s with ovr := true }

/-- A host write (20_memory.md R66, R72; 10_state.md R32, R33, R35). A malformed write changes nothing, whether the block
is busy or not (log entry 18). -/
def hostWrite (off size : Nat) (v : Word) (s : State) : State :=
  if s.resetPin then s
  else
    match targetOf s.cfg off size with
    | .malformed => s
    | .register off =>
      if off = 0x020 ∧ v.getLsbD 0 = true then resetBlock s
      else if s.busy then dropBusy s
      else if off = 0x000 then acceptCommand v s
      else s
    | .buffer a n => if s.busy then dropBusy s else writeBytes s a (wordBytes v n)

/-- One host access (20_memory.md R66). -/
def hostAccess (a : HostAccess) (s : State) : State :=
  match a with
  | .read off size => hostRead off size s
  | .write off size v => hostWrite off size v s

/-- The reset input becomes asserted: the block is reset and accepts no access until the release
(70_reset_and_hazards.md R320; log entry 7). -/
def assertReset (s : State) : State := { resetBlock s with resetPin := true }

/-- The reset input is released: the state is exactly that of 10_state.md R48 (70_reset_and_hazards.md R320). -/
def releaseReset (s : State) : State := { resetBlock s with resetPin := false }

/-- The turns of `HostIssue(w)` on an idle block (70_reset_and_hazards.md R331): the write of `CMD`, the engine's step,
the read of `STATUS` that finds `BUSY = 0`. -/
def issueTurns (w : Word) : List Turn := [.host (.write 0x000 8 w), .engine, .host (.read 0x008 8)]

end Sys2Proof.Machine
end

