-- ==== Sys2Proof/Machine/Engine.lean ====
section
/-! DEFINITION. The engine's step (60_exceptions.md R281) and the turn of each agent (00_scope.md R13). -/

namespace Sys2Proof.Machine

/-- The engine ends the pending command: decoding first, then the command's own step (60_exceptions.md R281, R282). -/
def engineStep (s : State) : Host.Outcome State Fault Refusal :=
  match decode s.pend with
  | .ok i => exec i s
  | .error _ => .next (enterFault .illegalCommand s)

/-- The engine's turn: its step is enabled exactly when `BUSY = 1`; an idle block waits, keeping all state
(60_exceptions.md R281, R308). -/
def engineTurn (s : State) : Host.Outcome State Fault Refusal := if s.busy then engineStep s else .next s

/-- One turn of the agent whose turn it is. -/
def takeTurn (t : Turn) (s : State) : Host.Outcome State Fault Refusal :=
  match t with
  | .engine => engineTurn s
  | .host a => .next (hostAccess a s)
  | .assertReset => .next (Sys2Proof.Machine.assertReset s)
  | .releaseReset => .next (Sys2Proof.Machine.releaseReset s)

/-- The command word `w` pending, as after an accepted write of `CMD`, with no other turn before the engine's
(10_state.md R33, R49; log entry 5). -/
def withPending (s : State) (w : Word) : State := { s with pend := w, busy := true, agenda := [] }

end Sys2Proof.Machine
end

