-- ==== Sys2Proof/Machine/Step.lean ====
section
/-! DEFINITION. The step of the whole machine: the first turn of the agenda, or, when it is empty, the engine's
(00_scope.md R13; 70_reset_and_hazards.md R336; log entry 5). -/

namespace Sys2Proof.Machine

/-- One step: the agent whose turn it is moves. With an empty agenda the engine moves, so that a pending command always
ends (70_reset_and_hazards.md R336). -/
def step (s : State) : Host.Outcome State Fault Refusal :=
  match s.agenda with
  | [] => engineTurn s
  | t :: rest => takeTurn t { s with agenda := rest }

/-- `s` with the command word `w` (bits above `nbits` zero) pending, so that the next step runs it (log entries 5, 15). -/
def State.withFetchWord (s : State) (nbits w : Nat) : State := withPending s (BitVec.ofNat 64 (w % 2 ^ nbits))

end Sys2Proof.Machine
end

