-- ==== Sys2Proof/Machine/Montgomery.lean ====
section
/-! DEFINITION. The reference datapath of `MODINV` and `MODPOW` (42_modinv_gcd.md R167 to R170, 43_modpow.md R184
to R193). It defines no behaviour of its own: the commands run the contracts of Machine/Euclid.lean and
Machine/ModPow.lean, and a statement says that the two agree (43_modpow.md R194; log entry 12). -/

namespace Sys2Proof.Machine

/-- The lifting loop of `inv2` (42_modinv_gcd.md R169): `k` doubles, so `t` passes suffice. -/
def inv2Loop : Nat → Int → Nat → Nat → Int → Int
  | 0, _, _, _, y => y
  | fuel + 1, a, t, k, y =>
    if k < t then inv2Loop fuel a t (2 * k) ((y * (2 - a * y)) % ((2 ^ min (2 * k) t : Nat) : Int)) else y

/-- `inv2(a, t)`: the inverse of an odd `a` modulo `2^t` by Newton lifting (42_modinv_gcd.md R169). -/
def inv2 (a t : Nat) : Nat := (inv2Loop t a t 1 1 % ((2 ^ t : Nat) : Int)).toNat

/-- `CRT(x1, m₁, x2, t)`, Garner's form (42_modinv_gcd.md R170). -/
def crt (x1 m1 x2 t : Nat) : Nat :=
  if t = 0 then x1
  else if m1 = 1 then x2
  else
    let c := inv2 (m1 % 2 ^ t) t
    let h := ((((x2 : Int) - x1) * c) % ((2 ^ t : Nat) : Int)).toNat
    x1 + m1 * h

/-- The inverse modulo the odd part `m₁ > 1` (42_modinv_gcd.md R168). -/
def inverseOdd (a m1 : Nat) : Nat := ((bezoutDefault a m1).1 % (m1 : Int)).toNat

/-- `inv(a, m)` for `m ≥ 1` by the split `m = m₁·2^t` (42_modinv_gcd.md R167). -/
def inverseDatapath (a : Int) (m : Nat) : Nat :=
  if m = 1 then 0
  else
    let t := ctz m
    let m1 := m / 2 ^ t
    let x1 := if 1 < m1 then inverseOdd (a % (m1 : Int)).toNat m1 else 0
    let x2 := if 0 < t then inv2 (a % ((2 ^ t : Nat) : Int)).toNat t else 0
    crt x1 m1 x2 t

/-- The number `k` of limbs of an odd modulus (43_modpow.md R187). -/
def montLimbs (m1 : Nat) : Nat := (bitlenNat m1 + 63) / 64

/-- `R = 2^(64·k)` (43_modpow.md R187). -/
def montR (m1 : Nat) : Nat := 2 ^ (64 * montLimbs m1)

/-- One Newton pass on a 64-bit word (43_modpow.md R187). -/
def newtonWord (n y : Word) : Word := y * (2 - n * y)

/-- `m0' = (−(m₁ mod 2^64)^(−1)) mod 2^64`, the word-size Montgomery inverse (43_modpow.md R187). -/
def montWordInverse (m1 : Nat) : Nat :=
  let n : Word := BitVec.ofNat 64 m1
  (-(newtonWord n (newtonWord n (newtonWord n (newtonWord n (newtonWord n n)))))).toNat

/-- The `k` passes of `REDC` (43_modpow.md R188). -/
def redcLoop (m1 m0 : Nat) : Nat → Nat → Nat
  | 0, T => T
  | k + 1, T => redcLoop m1 m0 k ((T + (T % 2 ^ 64 * m0 % 2 ^ 64) * m1) / 2 ^ 64)

/-- `REDC(T)`, Montgomery reduction (43_modpow.md R188). -/
def redc (m1 T : Nat) : Nat :=
  let T' := redcLoop m1 (montWordInverse m1) (montLimbs m1) T
  if m1 ≤ T' then T' - m1 else T'

/-- `MontMul(x, y) = REDC(x·y)` (43_modpow.md R188). -/
def montMul (m1 x y : Nat) : Nat := redc m1 (x * y)

/-- `toMont(x) = REDC(x·RR)` with `RR = R² mod m₁` (43_modpow.md R187, R189). -/
def toMont (m1 x : Nat) : Nat := redc m1 (x * (montR m1 * montR m1 % m1))

/-- `fromMont(x~) = REDC(x~)` (43_modpow.md R189). -/
def fromMont (m1 x : Nat) : Nat := redc m1 x

/-- `MontPow(a', e, m₁)` (43_modpow.md R190). -/
def montPow (a e m1 : Nat) : Nat :=
  fromMont m1 (binaryPower (montMul m1) (montR m1 % m1) (toMont m1 a) e)

/-- `TruncPow(a', e, t)` (43_modpow.md R192). -/
def truncPow (a e t : Nat) : Nat := binaryPower (fun x y => x * y % 2 ^ t) (1 % 2 ^ t) a e

/-- The steps of the datapath for `M > 1` (43_modpow.md R184). -/
def mpowDatapath (a e : Int) (M : Nat) : Nat :=
  let b : Int := if e < 0 then (inverseDatapath a M : Int) else a
  let n := e.natAbs
  let t := ctz M
  let m1 := M / 2 ^ t
  let x1 := if 1 < m1 then montPow (b % (m1 : Int)).toNat n m1 else 0
  let x2 := if 0 < t then truncPow (b % ((2 ^ t : Nat) : Int)).toNat n t else 0
  crt x1 m1 x2 t

end Sys2Proof.Machine
end

