-- ==== Sys2Proof/Safety.lean ====
section
/-! DEFINITION. What the statements speak of: the ways a command ends (60_exceptions.md R281, R283), what each command
reads, writes and can raise (10_state.md R24, 60_exceptions.md R294), the spec's rows, bits and readings
(30_encoding.md R98, 00_scope.md R9, 44_moves_encoding.md R210 to R212), the host's accesses (20_memory.md R66) and the
invariants of the block. -/

namespace Sys2Proof.Machine

/-- The state after a command that completes, but for its effects: counted, and the block idle (60_exceptions.md R281). -/
def State.counted (s : State) : State := { s with cmdcnt := s.cmdcnt + 1, busy := false }

/-- The state after a fault with a cause code: exactly the four writes of 60_exceptions.md R283. -/
def State.faulted (s : State) (code : BitVec 8) : State :=
  { s with fault := true, cause := code, finfo := s.pend, busy := false }

/-- The state with one register given a value, its valid bit set (10_state.md R23). -/
def State.withReg (s : State) (r : Reg) (v : Int) : State := { s with regs := s.regs.set r (some v) }

/-- The register that the 4-bit field of a command word from bit `lo` upward names (30_encoding.md R91, R97). -/
def regAt (w : Word) (lo : Nat) : Reg := toReg (w.extractLsb' lo 4)

/-- What bits 33:32 of a word say where they are the `mode` field: bit 33 is 1 for signed, bit 32 is 1 for little-endian
(30_encoding.md R91). -/
def modeAt (w : Word) : Codec :=
  if w.getLsbD 33 then (if w.getLsbD 32 then .sle else .sbe) else (if w.getLsbD 32 then .ule else .ube)

/-- A row of the opcode map: the words with `(w and mask) = match` are exactly those that decode to the command `i w`
(30_encoding.md R98). -/
def EncodedAs (pattern mask : Word) (i : Word → Instr) : Prop := ∀ w, w &&& mask = pattern ↔ decode w = .ok (i w)

/-- The distinct destinations of `DIVREM` and `XGCD`, on the word (30_encoding.md R98, R99). -/
def DistinctDestinations (w : Word) : Prop :=
  (w.extractLsb' 56 8 = 0x24 → w.extractLsb' 52 4 ≠ w.extractLsb' 40 4) ∧
  (w.extractLsb' 56 8 = 0x42 →
    w.extractLsb' 52 4 ≠ w.extractLsb' 40 4 ∧ w.extractLsb' 52 4 ≠ w.extractLsb' 36 4 ∧
      w.extractLsb' 40 4 ≠ w.extractLsb' 36 4)

/-- The registers a command reads (10_state.md R24). -/
def sources : Instr → List Reg
  | .nop => []
  | .ldi _ _ => []
  | .mov _ ra => [ra]
  | .ld _ _ _ _ => []
  | .st ra _ _ _ => [ra]
  | .enclen ra _ => [ra]
  | .add _ ra rb => [ra, rb]
  | .sub _ ra rb => [ra, rb]
  | .neg _ ra => [ra]
  | .mul _ ra rb => [ra, rb]
  | .divrem _ _ ra rb => [ra, rb]
  | .mod _ ra rb => [ra, rb]
  | .and _ ra rb => [ra, rb]
  | .or _ ra rb => [ra, rb]
  | .xor _ ra rb => [ra, rb]
  | .not _ ra => [ra]
  | .shl _ ra _ => [ra]
  | .shr _ ra _ => [ra]
  | .tst ra => [ra]
  | .tbit ra _ => [ra]
  | .bitlen ra => [ra]
  | .ctz ra => [ra]
  | .modinv _ ra rb => [ra, rb]
  | .gcd _ ra rb => [ra, rb]
  | .xgcd _ _ _ ra rb => [ra, rb]
  | .modpow _ ra rb rc => [ra, rb, rc]
  | .kinit _ => []
  | .kreset => []
  | .kabs _ _ => []
  | .kflip _ => []
  | .ksqz _ _ => []
  | .kperm => []

/-- The registers a command writes (10_state.md R24). -/
def destinations : Instr → List Reg
  | .nop => []
  | .ldi rd _ => [rd]
  | .mov rd _ => [rd]
  | .ld rd _ _ _ => [rd]
  | .st _ _ _ _ => []
  | .enclen _ _ => []
  | .add rd _ _ => [rd]
  | .sub rd _ _ => [rd]
  | .neg rd _ => [rd]
  | .mul rd _ _ => [rd]
  | .divrem rd rc _ _ => [rd, rc]
  | .mod rd _ _ => [rd]
  | .and rd _ _ => [rd]
  | .or rd _ _ => [rd]
  | .xor rd _ _ => [rd]
  | .not rd _ => [rd]
  | .shl rd _ _ => [rd]
  | .shr rd _ _ => [rd]
  | .tst _ => []
  | .tbit _ _ => []
  | .bitlen _ => []
  | .ctz _ => []
  | .modinv rd _ _ => [rd]
  | .gcd rd _ _ => [rd]
  | .xgcd rd rc re _ _ => [rd, rc, re]
  | .modpow rd _ _ _ => [rd]
  | .kinit _ => []
  | .kreset => []
  | .kabs _ _ => []
  | .kflip _ => []
  | .ksqz _ _ => []
  | .kperm => []

/-- The cause codes a command can raise (60_exceptions.md R294). -/
def possibleCauses : Instr → List (BitVec 8)
  | .nop => [1]
  | .ldi _ _ => [1]
  | .mov _ _ => [1, 2]
  | .ld _ _ _ _ => [1, 3, 10]
  | .st _ _ _ _ => [1, 2, 3, 7, 9]
  | .enclen _ _ => [1, 2, 7]
  | .add _ _ _ => [1, 2, 10]
  | .sub _ _ _ => [1, 2, 10]
  | .neg _ _ => [1, 2, 10]
  | .mul _ _ _ => [1, 2, 10]
  | .divrem _ _ _ _ => [1, 2, 5, 10]
  | .mod _ _ _ => [1, 2, 5]
  | .and _ _ _ => [1, 2]
  | .or _ _ _ => [1, 2]
  | .xor _ _ _ => [1, 2]
  | .not _ _ => [1, 2]
  | .shl _ _ _ => [1, 2, 10]
  | .shr _ _ _ => [1, 2]
  | .tst _ => [1, 2]
  | .tbit _ _ => [1, 2]
  | .bitlen _ => [1, 2]
  | .ctz _ => [1, 2, 6]
  | .modinv _ _ _ => [1, 2, 6, 8]
  | .gcd _ _ _ => [1, 2, 10]
  | .xgcd _ _ _ _ _ => [1, 2, 10]
  | .modpow _ _ _ _ => [1, 2, 5, 8]
  | .kinit _ => [1, 6]
  | .kreset => [1]
  | .kabs _ _ => [1, 3, 4]
  | .kflip _ => [1, 4]
  | .ksqz _ _ => [1, 3, 4]
  | .kperm => [1]

/-- `bit(v, i) = floor(v / 2^i) mod 2` (00_scope.md R9). -/
def bitOf (v : Int) (i : Nat) : Bool := decide (v / 2 ^ i % 2 = 1)

/-- `dec_ube` of the `n` bytes `f 0, …, f (n−1)`, as the sum of 44_moves_encoding.md R210. -/
def sumBE (f : Nat → Byte) (n : Nat) : Int := ∑ k ∈ Finset.range n, ((f k).toNat : Int) * 256 ^ (n - 1 - k)

/-- `dec_ule` of the `n` bytes `f 0, …, f (n−1)`, as the sum of 44_moves_encoding.md R210. -/
def sumLE (f : Nat → Byte) (n : Nat) : Int := ∑ k ∈ Finset.range n, ((f k).toNat : Int) * 256 ^ k

/-- The integer that `n` bytes spell in a mode (44_moves_encoding.md R210, R211). -/
def reading (m : Codec) (f : Nat → Byte) (n : Nat) : Int :=
  match m with
  | .ube => sumBE f n
  | .ule => sumLE f n
  | .sbe => if 0 < n ∧ 0x80 ≤ (f 0).toNat then sumBE f n - 256 ^ n else sumBE f n
  | .sle => if 0 < n ∧ 0x80 ≤ (f (n - 1)).toNat then sumLE f n - 256 ^ n else sumLE f n

/-- Whether `v` fits `n` bytes in a mode (44_moves_encoding.md R212, its last sentence). -/
def Fits (m : Codec) (v : Int) (n : Nat) : Prop :=
  match m with
  | .ube => 0 ≤ v ∧ v < 256 ^ n
  | .ule => 0 ≤ v ∧ v < 256 ^ n
  | .sbe => 0 < n ∧ -256 ^ n ≤ 2 * v ∧ 2 * v < 256 ^ n
  | .sle => 0 < n ∧ -256 ^ n ≤ 2 * v ∧ 2 * v < 256 ^ n

/-- The unsigned modes (44_moves_encoding.md R216, `mode[1] = 0`). -/
abbrev Unsigned (m : Codec) : Prop := m = .ube ∨ m = .ule

/-- `k` is the bit length of `v`: for `v ≥ 0` the least `k` with `v < 2^k`, for `v < 0` that of `−v − 1`
(00_scope.md R10). -/
abbrev IsBitlen (v : Int) (k : Nat) : Prop :=
  (if 0 ≤ v then v else -v - 1) < 2 ^ k ∧ ∀ j < k, 2 ^ j ≤ (if 0 ≤ v then v else -v - 1)

/-- Every register that has a value holds one in range (10_state.md R22). -/
def State.RegsInRange (s : State) : Prop := ∀ (r : Reg) (v : Int), s.regs[r] = some v → InRange s.cfg v

/-- The buffer is in canonical form and lists no address that does not exist (20_memory.md R61). -/
def State.BufferOk (s : State) : Prop := Memory.wf s.buf ∧ ∀ c ∈ s.buf, c.1 < s.cfg.bufsz

/-- The capacity is legal, and the position is below the rate in absorb mode and at most the rate in squeeze mode
(10_state.md R41, R44). -/
def State.SpongeOk (s : State) : Prop :=
  LegalCapacity s.cap.toNat ∧ (s.mode = .absorb → s.pos.toNat < rate s) ∧ (s.mode = .squeeze → s.pos.toNat ≤ rate s)

/-- The fault registers: `CAUSE` and `FINFO` are 0 while `FAULT = 0`; `CAUSE` is one of the codes 1 to 10 and the block
is not busy while `FAULT = 1` (10_state.md R34, R36; 60_exceptions.md R281, R284). -/
def State.FaultOk (s : State) : Prop :=
  (s.fault = false → s.cause = 0 ∧ s.finfo = 0) ∧
  (s.fault = true → s.busy = false ∧ 1 ≤ s.cause.toNat ∧ s.cause.toNat ≤ 10)

/-- A register access of the host: 64 bits, aligned, below `0x10000` (20_memory.md R66). -/
abbrev RegisterAccess (off size : Nat) : Prop := size = 8 ∧ off % 8 = 0 ∧ off < 0x10000

/-- A buffer access of the host: 1, 2, 4 or 8 bytes, aligned, inside the window of `BUF` (20_memory.md R66). -/
abbrev BufferAccess (c : Config) (off size : Nat) : Prop :=
  0x10000 ≤ off ∧ (size = 1 ∨ size = 2 ∨ size = 4 ∨ size = 8) ∧ (off - 0x10000) % size = 0 ∧
    off - 0x10000 + size ≤ c.bufsz

/-- An aligned 64-bit access to a reserved offset above `BUF` (10_state.md R32; log entry 10). -/
abbrev ReservedAccess (c : Config) (off size : Nat) : Prop :=
  size = 8 ∧ off % 8 = 0 ∧ 0x10000 + c.bufsz ≤ off ∧ off < 0x20000

/-- The host's next turn is an access, and the block is not held in reset. -/
abbrev HostTurn (s : State) (a : HostAccess) (rest : List Turn) : Prop :=
  s.agenda = .host a :: rest ∧ s.resetPin = false

/-- The block's state is that of 10_state.md R48: registers without a value, everything else at its reset value, and no
byte of `BUF` written, so that every byte is the free byte of the draw in force. -/
def State.IsReset (s : State) : Prop :=
  (∀ r : Reg, s.regs[r] = none) ∧ s.flags = 0 ∧ s.sres = 0 ∧ s.busy = false ∧ s.fault = false ∧ s.ovr = false ∧
    s.cause = 0 ∧ s.cmdcnt = 0 ∧ s.finfo = 0 ∧ (∀ i : Fin 25, s.lanes[i] = 0) ∧ s.cap = 256 ∧ s.mode = .absorb ∧
    s.pos = 0 ∧ ∀ a, readByte s a = Config.freeByte s.bufDraw a

end Sys2Proof.Machine
end

