-- ==== Sys2Proof/Certificates/Slice0/Obligations.lean ====
section
/-! DEFINITION. The statements for the provers. Each states numbered rules of spec/; a command's statement says where its
words stand in the opcode map, when it faults and with which code, and, as an equation for the next state, its whole
effect, so that whatever the equation does not name is unchanged. -/

section
open Sys2Proof Sys2Proof.Machine

/-! ### Decoding and the engine's step -/

/-- Decoding the word of a well-formed command gives the command back (30_encoding.md R91, R92, R98, R99). -/
def Obligations.DecodeOfEncodeIsTheCommand : Prop :=
  ∀ i : Instr, i.WellFormed = true → decode (encode i) = .ok i

/-- Every legal word is the encoding of the well-formed command it decodes to, so one word has one meaning and one command
one word (30_encoding.md R92, R98, R99). -/
def Obligations.EncodeOfDecodeIsTheWord : Prop :=
  ∀ (w : Word) (i : Instr), decode w = .ok i → encode i = w ∧ i.WellFormed = true

/-- The opcode map (30_encoding.md R98): 32 rows, the match of each is `op << 56`, no word matches two of them, and a word
is a row's command exactly when it matches the row and its destinations are distinct. -/
def Obligations.DecodeAcceptsExactlyTheTable : Prop :=
  opcodeTable.length = 32 ∧
  (∀ row ∈ opcodeTable, row.pattern = row.op.setWidth 64 <<< 56) ∧
  (opcodeTable.Pairwise fun r q => ∀ w : Word, ¬(w &&& r.mask = r.pattern ∧ w &&& q.mask = q.pattern)) ∧
  ∀ (w : Word) (i : Instr),
    decode w = .ok i ↔
      ∃ row ∈ opcodeTable, w &&& row.mask = row.pattern ∧ DistinctDestinations w ∧ row.build (fieldsOf w) = i

/-- Words written out from the examples of the command rules decode to the commands they stand for. -/
def Obligations.SampleWordsDecode : Prop :=
  decode 0x0100000000000000 = .ok .nop ∧ decode 0x10100000FFFFFFF9 = .ok (.ldi 1 0xFFFFFFF9) ∧
  decode 0x1210000000020040 = .ok (.ld 1 .ube 2 0x40) ∧ decode 0x1210000100020040 = .ok (.ld 1 .ule 2 0x40) ∧
  decode 0x1301000200020080 = .ok (.st 1 .sbe 2 0x80) ∧ decode 0x1210000300020040 = .ok (.ld 1 .sle 2 0x40) ∧
  decode 0x2031200000000000 = .ok (.add 3 1 2) ∧
  decode 0x2431240000000000 = .ok (.divrem 3 4 1 2) ∧ decode 0x3431000000000002 = .ok (.shl 3 1 2) ∧
  decode 0x4231245000000000 = .ok (.xgcd 3 4 5 1 2) ∧ decode 0x4341230000000000 = .ok (.modpow 4 1 2 3) ∧
  decode 0x5300000100000000 = .ok (.kflip true) ∧ decode 0x5400000000200100 = .ok (.ksqz 0x20 0x100)

/-- The engine's step is enabled exactly when the block is busy (60_exceptions.md R281, R308): an idle block is left as it is;
a busy one runs the decoded command (R282), on its own with an empty agenda or as the first turn of the agenda. -/
def Obligations.StepRunsTheDecodedCommand : Prop :=
  ∀ s : State,
    (s.busy = false →
      (s.agenda = [] → step s = .next s) ∧
      ∀ rest, s.agenda = .engine :: rest → step s = .next { s with agenda := rest }) ∧
    ∀ i : Instr, decode s.pend = .ok i → s.busy = true →
      (s.agenda = [] → step s = exec i s) ∧
      ∀ rest, s.agenda = .engine :: rest → step s = exec i { s with agenda := rest }

/-- A pending word that is no command faults with `IllegalCommand`, on its own or as the first turn of the agenda: it
matches no row (an unassigned op, or a non-zero bit in a field that is not live), or it is a `DIVREM` or `XGCD` with two
equal destinations (30_encoding.md R100, 60_exceptions.md R285). -/
def Obligations.IllegalWordFaultsWithCode1 : Prop :=
  ∀ s : State, s.busy = true →
    ((∀ row ∈ opcodeTable, s.pend &&& row.mask ≠ row.pattern) ∨ ¬DistinctDestinations s.pend) →
    (s.agenda = [] → step s = .next (s.faulted 1)) ∧
    ∀ rest, s.agenda = .engine :: rest → step s = .next (State.faulted { s with agenda := rest } 1)

/-! ### System, moves and the byte codec -/

/-- `NOP` (46_system.md R270): nothing but the count, modulo `2^32`. -/
def Obligations.NopOnlyCounts : Prop :=
  EncodedAs 0x0100000000000000 0xFFFFFFFFFFFFFFFF (fun _ => .nop) ∧
  ∀ s : State, exec .nop s = .next { s with cmdcnt := s.cmdcnt + 1, busy := false }

/-- `LDI` (44_moves_encoding.md R213, 30_encoding.md R93): the register gets the immediate read as a signed 32-bit number,
which is always in range. -/
def Obligations.LdiLoadsSignedImmediate : Prop :=
  EncodedAs 0x1000000000000000 0xFF0FFFFF00000000 (fun w => .ldi (regAt w 52) (w.extractLsb' 0 32)) ∧
  ∀ (s : State) (rd : Reg) (imm : BitVec 32), ∃ v : Int,
    v = (if imm.toNat < 2 ^ 31 then (imm.toNat : Int) else imm.toNat - 2 ^ 32) ∧
    exec (.ldi rd imm) s = .next (s.withReg rd v).counted ∧ (s.cfg.Legal → InRange s.cfg v)

/-- `MOV` (44_moves_encoding.md R214). -/
def Obligations.MovCopies : Prop :=
  EncodedAs 0x1100000000000000 0xFF00FFFFFFFFFFFF (fun w => .mov (regAt w 52) (regAt w 48)) ∧
  ∀ (s : State) (rd ra : Reg),
    (s.regs[ra] = none → exec (.mov rd ra) s = .next (s.faulted 2)) ∧
    ∀ a, s.regs[ra] = some a → exec (.mov rd ra) s = .next (s.withReg rd a).counted

/-- `LD` (44_moves_encoding.md R215, with the readings of R210, R211): the register gets the integer that the `len` bytes
from `addr` spell in the mode. -/
def Obligations.LdDecodesTheBytes : Prop :=
  EncodedAs 0x1200000000000000 0xFF0FFFFC00000000
    (fun w => .ld (regAt w 52) (modeAt w) (w.extractLsb' 16 16) (w.extractLsb' 0 16)) ∧
  ∀ (s : State) (rd : Reg) (m : Codec) (len addr : BitVec 16),
    (s.cfg.bufsz < addr.toNat + len.toNat → exec (.ld rd m len addr) s = .next (s.faulted 3)) ∧
    (addr.toNat + len.toNat ≤ s.cfg.bufsz →
      ∀ v, v = reading m (fun k => readByte s (addr.toNat + k)) len.toNat →
        (¬InRange s.cfg v → exec (.ld rd m len addr) s = .next (s.faulted 10)) ∧
        (InRange s.cfg v → exec (.ld rd m len addr) s = .next (s.withReg rd v).counted))

/-- `ST` (44_moves_encoding.md R216, with the bytes of R218): the `len` bytes from `addr` become those of the
two's-complement residue of the value, in the byte order of the mode; no other byte and nothing else changes. -/
def Obligations.StEncodesTheValue : Prop :=
  EncodedAs 0x1300000000000000 0xFFF0FFFC00000000
    (fun w => .st (regAt w 48) (modeAt w) (w.extractLsb' 16 16) (w.extractLsb' 0 16)) ∧
  ∀ (s : State) (ra : Reg) (m : Codec) (len addr : BitVec 16),
    (s.regs[ra] = none → exec (.st ra m len addr) s = .next (s.faulted 2)) ∧
    ∀ v, s.regs[ra] = some v →
      (s.cfg.bufsz < addr.toNat + len.toNat → exec (.st ra m len addr) s = .next (s.faulted 3)) ∧
      (addr.toNat + len.toNat ≤ s.cfg.bufsz →
        (Unsigned m → v < 0 → exec (.st ra m len addr) s = .next (s.faulted 7)) ∧
        ((Unsigned m → 0 ≤ v) → ¬Fits m v len.toNat → exec (.st ra m len addr) s = .next (s.faulted 9)) ∧
        ((Unsigned m → 0 ≤ v) → Fits m v len.toNat →
          ∃ t : State, exec (.st ra m len addr) s = .next t ∧ t = { s.counted with buf := t.buf } ∧
            (∀ k < len.toNat,
              ((readByte t (addr.toNat + k)).toNat : Int) =
                v % 256 ^ len.toNat /
                  256 ^ (if m = .ule ∨ m = .sle then k else len.toNat - 1 - k) % 256) ∧
            ∀ a, a < addr.toNat ∨ addr.toNat + len.toNat ≤ a → readByte t a = readByte s a))

/-- `ENCLEN` (44_moves_encoding.md R217, with the minimal lengths of R212): `SRES` gets the least number of bytes that the
value fits in the mode. -/
def Obligations.EnclenGivesLeastLength : Prop :=
  EncodedAs 0x1400000000000000 0xFFF0FFFCFFFFFFFF (fun w => .enclen (regAt w 48) (modeAt w)) ∧
  ∀ (s : State) (ra : Reg) (m : Codec),
    (s.regs[ra] = none → exec (.enclen ra m) s = .next (s.faulted 2)) ∧
    ∀ v, s.regs[ra] = some v →
      (Unsigned m → v < 0 → exec (.enclen ra m) s = .next (s.faulted 7)) ∧
      ((Unsigned m → 0 ≤ v) →
        ∃ n : Nat, Fits m v n ∧ (∀ k < n, ¬Fits m v k) ∧
          (∀ k, IsBitlen v k → n = if Unsigned m then (k + 7) / 8 else k / 8 + 1) ∧
          (s.cfg.Legal → InRange s.cfg v → n ≤ s.cfg.width / 8) ∧
          exec (.enclen ra m) s = .next { s with sres := BitVec.ofNat 64 n }.counted)

/-! ### Arithmetic -/

/-- `ADD`, `SUB`, `NEG` (40_arith.md R122, R123, R124): the exact sum, difference or negative, or `RangeOverflow`. -/
def Obligations.AddSubNegAreExact : Prop :=
  EncodedAs 0x2000000000000000 0xFF000FFFFFFFFFFF (fun w => .add (regAt w 52) (regAt w 48) (regAt w 44)) ∧
  EncodedAs 0x2100000000000000 0xFF000FFFFFFFFFFF (fun w => .sub (regAt w 52) (regAt w 48) (regAt w 44)) ∧
  EncodedAs 0x2200000000000000 0xFF00FFFFFFFFFFFF (fun w => .neg (regAt w 52) (regAt w 48)) ∧
  ∀ (s : State) (rd ra rb : Reg),
    (s.regs[ra] = none ∨ s.regs[rb] = none →
      exec (.add rd ra rb) s = .next (s.faulted 2) ∧ exec (.sub rd ra rb) s = .next (s.faulted 2)) ∧
    (s.regs[ra] = none → exec (.neg rd ra) s = .next (s.faulted 2)) ∧
    (∀ a b, s.regs[ra] = some a → s.regs[rb] = some b →
      (InRange s.cfg (a + b) → exec (.add rd ra rb) s = .next (s.withReg rd (a + b)).counted) ∧
      (¬InRange s.cfg (a + b) → exec (.add rd ra rb) s = .next (s.faulted 10)) ∧
      (InRange s.cfg (a - b) → exec (.sub rd ra rb) s = .next (s.withReg rd (a - b)).counted) ∧
      (¬InRange s.cfg (a - b) → exec (.sub rd ra rb) s = .next (s.faulted 10))) ∧
    ∀ a, s.regs[ra] = some a →
      (InRange s.cfg (-a) → exec (.neg rd ra) s = .next (s.withReg rd (-a)).counted) ∧
      (¬InRange s.cfg (-a) → exec (.neg rd ra) s = .next (s.faulted 10)) ∧
      (InRange s.cfg a → (¬InRange s.cfg (-a) ↔ a = -2 ^ (s.cfg.width - 1)))

/-- `MUL` (40_arith.md R125): the full product, or `RangeOverflow`. -/
def Obligations.MulIsExact : Prop :=
  EncodedAs 0x2300000000000000 0xFF000FFFFFFFFFFF (fun w => .mul (regAt w 52) (regAt w 48) (regAt w 44)) ∧
  ∀ (s : State) (rd ra rb : Reg),
    (s.regs[ra] = none ∨ s.regs[rb] = none → exec (.mul rd ra rb) s = .next (s.faulted 2)) ∧
    ∀ a b, s.regs[ra] = some a → s.regs[rb] = some b →
      (InRange s.cfg (a * b) → exec (.mul rd ra rb) s = .next (s.withReg rd (a * b)).counted) ∧
      (¬InRange s.cfg (a * b) → exec (.mul rd ra rb) s = .next (s.faulted 10))

/-- `DIVREM` (40_arith.md R126): quotient truncated toward zero in `rd`, remainder with the dividend's sign in `rc`. The one
pair of operands in range that overflows is the least integer divided by −1. -/
def Obligations.DivremTruncates : Prop :=
  (∀ w : Word, (w &&& 0xFF0000FFFFFFFFFF = 0x2400000000000000 ∧ regAt w 52 ≠ regAt w 40) ↔
    decode w = .ok (.divrem (regAt w 52) (regAt w 40) (regAt w 48) (regAt w 44))) ∧
  ∀ (s : State) (rd rc ra rb : Reg), rd ≠ rc →
    (s.regs[ra] = none ∨ s.regs[rb] = none → exec (.divrem rd rc ra rb) s = .next (s.faulted 2)) ∧
    ∀ a b, s.regs[ra] = some a → s.regs[rb] = some b →
      (b = 0 → exec (.divrem rd rc ra rb) s = .next (s.faulted 5)) ∧
      (b ≠ 0 → ∃ q r : Int,
        q = a.sign * b.sign * (a.natAbs / b.natAbs : Nat) ∧ a = q * b + r ∧ r.natAbs < b.natAbs ∧
        (r = 0 ∨ r.sign = a.sign) ∧
        (InRange s.cfg q → exec (.divrem rd rc ra rb) s = .next ((s.withReg rd q).withReg rc r).counted) ∧
        (¬InRange s.cfg q → exec (.divrem rd rc ra rb) s = .next (s.faulted 10)) ∧
        (InRange s.cfg a → InRange s.cfg b →
          InRange s.cfg r ∧ (¬InRange s.cfg q ↔ a = -2 ^ (s.cfg.width - 1) ∧ b = -1)))

/-- `MOD` (40_arith.md R127): the representative in `[0, |m|)`, never out of range. -/
def Obligations.ModGivesTheRepresentative : Prop :=
  EncodedAs 0x2500000000000000 0xFF000FFFFFFFFFFF (fun w => .mod (regAt w 52) (regAt w 48) (regAt w 44)) ∧
  ∀ (s : State) (rd ra rb : Reg),
    (s.regs[ra] = none ∨ s.regs[rb] = none → exec (.mod rd ra rb) s = .next (s.faulted 2)) ∧
    ∀ a m, s.regs[ra] = some a → s.regs[rb] = some m →
      (m = 0 → exec (.mod rd ra rb) s = .next (s.faulted 5)) ∧
      (m ≠ 0 → ∃ v : Int, 0 ≤ v ∧ v < m.natAbs ∧ m ∣ a - v ∧ (InRange s.cfg m → InRange s.cfg v) ∧
        exec (.mod rd ra rb) s = .next (s.withReg rd v).counted)

/-! ### Bits, shifts, predicates -/

/-- `AND`, `OR`, `XOR` (41_bitwise_predicates.md R140, R142, R143, R144): the integer whose every bit is the operation on the
operands' bits, of the infinite two's-complement expansion; in range when the operands are. -/
def Obligations.AndOrXorActBitByBit : Prop :=
  EncodedAs 0x3000000000000000 0xFF000FFFFFFFFFFF (fun w => .and (regAt w 52) (regAt w 48) (regAt w 44)) ∧
  EncodedAs 0x3100000000000000 0xFF000FFFFFFFFFFF (fun w => .or (regAt w 52) (regAt w 48) (regAt w 44)) ∧
  EncodedAs 0x3200000000000000 0xFF000FFFFFFFFFFF (fun w => .xor (regAt w 52) (regAt w 48) (regAt w 44)) ∧
  ∀ (s : State) (rd ra rb : Reg),
    (s.regs[ra] = none ∨ s.regs[rb] = none →
      exec (.and rd ra rb) s = .next (s.faulted 2) ∧ exec (.or rd ra rb) s = .next (s.faulted 2) ∧
        exec (.xor rd ra rb) s = .next (s.faulted 2)) ∧
    ∀ a b, s.regs[ra] = some a → s.regs[rb] = some b → ∃ x y z : Int,
      (∀ i, bitOf x i = (bitOf a i && bitOf b i)) ∧ exec (.and rd ra rb) s = .next (s.withReg rd x).counted ∧
      (∀ i, bitOf y i = (bitOf a i || bitOf b i)) ∧ exec (.or rd ra rb) s = .next (s.withReg rd y).counted ∧
      (∀ i, bitOf z i = (bitOf a i ^^ bitOf b i)) ∧ exec (.xor rd ra rb) s = .next (s.withReg rd z).counted ∧
      (InRange s.cfg a → InRange s.cfg b → InRange s.cfg x ∧ InRange s.cfg y ∧ InRange s.cfg z)

/-- `NOT` (41_bitwise_predicates.md R145): `−a − 1`, the complement of every bit, in range when `a` is. -/
def Obligations.NotComplementsEveryBit : Prop :=
  EncodedAs 0x3300000000000000 0xFF00FFFFFFFFFFFF (fun w => .not (regAt w 52) (regAt w 48)) ∧
  ∀ (s : State) (rd ra : Reg),
    (s.regs[ra] = none → exec (.not rd ra) s = .next (s.faulted 2)) ∧
    ∀ a, s.regs[ra] = some a →
      exec (.not rd ra) s = .next (s.withReg rd (-a - 1)).counted ∧
      (∀ i, bitOf (-a - 1) i = !bitOf a i) ∧ (InRange s.cfg a → InRange s.cfg (-a - 1))

/-- `SHL` (41_bitwise_predicates.md R146): `a·2^n`, or `RangeOverflow`; the shift amount is the unsigned immediate. -/
def Obligations.ShlMultipliesByPowerOfTwo : Prop :=
  EncodedAs 0x3400000000000000 0xFF00FFFF00000000
    (fun w => .shl (regAt w 52) (regAt w 48) (w.extractLsb' 0 32)) ∧
  ∀ (s : State) (rd ra : Reg) (n : BitVec 32),
    (s.regs[ra] = none → exec (.shl rd ra n) s = .next (s.faulted 2)) ∧
    ∀ a, s.regs[ra] = some a →
      (InRange s.cfg (a * 2 ^ n.toNat) →
        exec (.shl rd ra n) s = .next (s.withReg rd (a * 2 ^ n.toNat)).counted) ∧
      (¬InRange s.cfg (a * 2 ^ n.toNat) → exec (.shl rd ra n) s = .next (s.faulted 10)) ∧
      (a ≠ 0 → ∀ k, IsBitlen a k → (¬InRange s.cfg (a * 2 ^ n.toNat) ↔ s.cfg.width - 1 < k + n.toNat))

/-- `SHR` (41_bitwise_predicates.md R147): the floor of `a / 2^n`; bit `i` of the result is bit `i + n` of `a`. -/
def Obligations.ShrTakesTheFloor : Prop :=
  EncodedAs 0x3500000000000000 0xFF00FFFF00000000
    (fun w => .shr (regAt w 52) (regAt w 48) (w.extractLsb' 0 32)) ∧
  ∀ (s : State) (rd ra : Reg) (n : BitVec 32),
    (s.regs[ra] = none → exec (.shr rd ra n) s = .next (s.faulted 2)) ∧
    ∀ a, s.regs[ra] = some a → ∃ v : Int,
      v = ⌊(a : ℚ) / 2 ^ n.toNat⌋ ∧ (∀ i, bitOf v i = bitOf a (i + n.toNat)) ∧
      (InRange s.cfg a → InRange s.cfg v) ∧ exec (.shr rd ra n) s = .next (s.withReg rd v).counted

/-- `TST` (41_bitwise_predicates.md R148): the four flags, and nothing else. -/
def Obligations.TstWritesTheFourFlags : Prop :=
  EncodedAs 0x3800000000000000 0xFFF0FFFFFFFFFFFF (fun w => .tst (regAt w 48)) ∧
  ∀ (s : State) (ra : Reg),
    (s.regs[ra] = none → exec (.tst ra) s = .next (s.faulted 2)) ∧
    ∀ v, s.regs[ra] = some v → ∃ f : BitVec 4,
      (f.getLsbD 0 = true ↔ v = 0) ∧ (f.getLsbD 1 = true ↔ v < 0) ∧ (f.getLsbD 2 = true ↔ v % 2 = 1) ∧
      (f.getLsbD 3 = true ↔ v = 1) ∧ exec (.tst ra) s = .next { s with flags := f }.counted

/-- `TBIT` (41_bitwise_predicates.md R149): `SRES` gets bit `i` of the infinite two's-complement expansion. -/
def Obligations.TbitReadsOneBit : Prop :=
  EncodedAs 0x3900000000000000 0xFFF0FFFF00000000 (fun w => .tbit (regAt w 48) (w.extractLsb' 0 32)) ∧
  ∀ (s : State) (ra : Reg) (i : BitVec 32),
    (s.regs[ra] = none → exec (.tbit ra i) s = .next (s.faulted 2)) ∧
    ∀ v, s.regs[ra] = some v →
      exec (.tbit ra i) s = .next { s with sres := if bitOf v i.toNat then 1 else 0 }.counted

/-- `BITLEN` (41_bitwise_predicates.md R150): `SRES` gets the bit length, at most `W − 1`. -/
def Obligations.BitlenGivesTheBitLength : Prop :=
  EncodedAs 0x3A00000000000000 0xFFF0FFFFFFFFFFFF (fun w => .bitlen (regAt w 48)) ∧
  ∀ (s : State) (ra : Reg),
    (s.regs[ra] = none → exec (.bitlen ra) s = .next (s.faulted 2)) ∧
    ∀ v, s.regs[ra] = some v → ∃ k : Nat, IsBitlen v k ∧ (InRange s.cfg v → k ≤ s.cfg.width - 1) ∧
      exec (.bitlen ra) s = .next { s with sres := BitVec.ofNat 64 k }.counted

/-- `CTZ` (41_bitwise_predicates.md R151): `SRES` gets the greatest `k` with `2^k` dividing a value above 0, also the least
index of a bit 1; another value is a `DomainError`. -/
def Obligations.CtzCountsTrailingZeros : Prop :=
  EncodedAs 0x3B00000000000000 0xFFF0FFFFFFFFFFFF (fun w => .ctz (regAt w 48)) ∧
  ∀ (s : State) (ra : Reg),
    (s.regs[ra] = none → exec (.ctz ra) s = .next (s.faulted 2)) ∧
    ∀ v, s.regs[ra] = some v →
      (v ≤ 0 → exec (.ctz ra) s = .next (s.faulted 6)) ∧
      (0 < v → ∃ k : Nat, (2 : Int) ^ k ∣ v ∧ ¬(2 : Int) ^ (k + 1) ∣ v ∧ bitOf v k = true ∧
        (∀ i < k, bitOf v i = false) ∧ exec (.ctz ra) s = .next { s with sres := BitVec.ofNat 64 k }.counted)

/-! ### Modular commands -/

/-- `MODINV` (42_modinv_gcd.md R162): the one `y` in `[0, m)` with `a·y ≡ 1 (mod m)`. -/
def Obligations.ModinvGivesTheInverse : Prop :=
  EncodedAs 0x4000000000000000 0xFF000FFFFFFFFFFF (fun w => .modinv (regAt w 52) (regAt w 48) (regAt w 44)) ∧
  ∀ (s : State) (rd ra rb : Reg),
    (s.regs[ra] = none ∨ s.regs[rb] = none → exec (.modinv rd ra rb) s = .next (s.faulted 2)) ∧
    ∀ a m, s.regs[ra] = some a → s.regs[rb] = some m →
      (m ≤ 0 → exec (.modinv rd ra rb) s = .next (s.faulted 6)) ∧
      (0 < m → Int.gcd a m ≠ 1 → exec (.modinv rd ra rb) s = .next (s.faulted 8)) ∧
      (0 < m → Int.gcd a m = 1 → ∃ y : Int, (0 ≤ y ∧ y < m ∧ m ∣ a * y - 1) ∧
        (∀ z : Int, 0 ≤ z → z < m → m ∣ a * z - 1 → z = y) ∧
        exec (.modinv rd ra rb) s = .next (s.withReg rd y).counted)

/-- `GCD` (42_modinv_gcd.md R163): the greatest common divisor, never negative; out of range only for `2^(W−1)`. -/
def Obligations.GcdGivesTheDivisor : Prop :=
  EncodedAs 0x4100000000000000 0xFF000FFFFFFFFFFF (fun w => .gcd (regAt w 52) (regAt w 48) (regAt w 44)) ∧
  ∀ (s : State) (rd ra rb : Reg),
    (s.regs[ra] = none ∨ s.regs[rb] = none → exec (.gcd rd ra rb) s = .next (s.faulted 2)) ∧
    ∀ a b, s.regs[ra] = some a → s.regs[rb] = some b → ∃ g : Int,
      0 ≤ g ∧ g ∣ a ∧ g ∣ b ∧ (∀ d : Int, d ∣ a → d ∣ b → d ∣ g) ∧
      (InRange s.cfg g → exec (.gcd rd ra rb) s = .next (s.withReg rd g).counted) ∧
      (¬InRange s.cfg g → exec (.gcd rd ra rb) s = .next (s.faulted 10)) ∧
      (InRange s.cfg a → InRange s.cfg b → (¬InRange s.cfg g ↔ g = 2 ^ (s.cfg.width - 1)) ∧
        (¬InRange s.cfg g ↔ (a = -2 ^ (s.cfg.width - 1) ∧ (b = 0 ∨ b = -2 ^ (s.cfg.width - 1))) ∨
          (a = 0 ∧ b = -2 ^ (s.cfg.width - 1))))

/-- `XGCD` (42_modinv_gcd.md R164, R165): `g`, `u`, `v` with `a·u + b·v = g`, where the pair is that of one function of the
instance and of `a`, `b` alone; `RangeOverflow` when one of the three is out of range. -/
def Obligations.XgcdMeetsTheBezoutLaw : Prop :=
  (∀ w : Word,
    (w &&& 0xFF00000FFFFFFFFF = 0x4200000000000000 ∧ regAt w 52 ≠ regAt w 40 ∧ regAt w 52 ≠ regAt w 36 ∧
      regAt w 40 ≠ regAt w 36) ↔
    decode w = .ok (.xgcd (regAt w 52) (regAt w 40) (regAt w 36) (regAt w 48) (regAt w 44))) ∧
  ∃ f : BezoutChoice → Int → Int → Int × Int,
    (∀ c a b, a * (f c a b).1 + b * (f c a b).2 = Int.gcd a b) ∧
    ∀ (s : State) (rd rc re ra rb : Reg), rd ≠ rc → rd ≠ re → rc ≠ re →
      (s.regs[ra] = none ∨ s.regs[rb] = none → exec (.xgcd rd rc re ra rb) s = .next (s.faulted 2)) ∧
      ∀ a b, s.regs[ra] = some a → s.regs[rb] = some b → ∀ g u v : Int,
        g = Int.gcd a b → (u, v) = f s.cfg.bezout a b →
        (InRange s.cfg g ∧ InRange s.cfg u ∧ InRange s.cfg v →
          exec (.xgcd rd rc re ra rb) s = .next (((s.withReg rd g).withReg rc u).withReg re v).counted) ∧
        (¬(InRange s.cfg g ∧ InRange s.cfg u ∧ InRange s.cfg v) →
          exec (.xgcd rd rc re ra rb) s = .next (s.faulted 10))

/-- The default `BEZOUT` (42_modinv_gcd.md R166): there is one loop with the rule's two equations, an instance with the
default parameter returns what the loop returns from the rule's initial values, the pair is bounded as the rule says, and
with operands in range `XGCD` then completes whenever `g` is in range. -/
def Obligations.XgcdWithDefaultBezoutCompletes : Prop :=
  ∃ loop : Int → Int → Int → Int → Int → Int → Int × Int,
    (∀ r0 s0 s1 t0 t1, loop r0 0 s0 s1 t0 t1 = if r0 < 0 then (-s0, -t0) else (s0, t0)) ∧
    (∀ r0 r1 s0 s1 t0 t1 q : Int, r1 ≠ 0 → q = r0.sign * r1.sign * (r0.natAbs / r1.natAbs : Nat) →
      loop r0 r1 s0 s1 t0 t1 = loop r1 (r0 - q * r1) s1 (s0 - q * s1) t1 (t0 - q * t1)) ∧
    ∀ a b g u v : Int, g = Int.gcd a b → (u, v) = loop a b 1 0 0 1 →
      (0 < g → (|u| ≤ 1 ∨ 2 * g * |u| ≤ |b|) ∧ (|v| ≤ 1 ∨ 2 * g * |v| ≤ |a|)) ∧
      ∀ (s : State) (rd rc re ra rb : Reg), s.cfg.bezout = .euclid → s.cfg.Legal → rd ≠ rc → rd ≠ re → rc ≠ re →
        s.regs[ra] = some a → s.regs[rb] = some b → InRange s.cfg a → InRange s.cfg b → InRange s.cfg g →
        exec (.xgcd rd rc re ra rb) s = .next (((s.withReg rd g).withReg rc u).withReg re v).counted

/-- `MODPOW` (43_modpow.md R180, R182): the modular power in `[0, |m|)`, with the inverse first for a negative exponent. -/
def Obligations.ModpowGivesTheModularPower : Prop :=
  EncodedAs 0x4300000000000000 0xFF0000FFFFFFFFFF
    (fun w => .modpow (regAt w 52) (regAt w 48) (regAt w 44) (regAt w 40)) ∧
  ∀ (s : State) (rd ra rb rc : Reg),
    (s.regs[ra] = none ∨ s.regs[rb] = none ∨ s.regs[rc] = none →
      exec (.modpow rd ra rb rc) s = .next (s.faulted 2)) ∧
    ∀ a e m, s.regs[ra] = some a → s.regs[rb] = some e → s.regs[rc] = some m →
      (m = 0 → exec (.modpow rd ra rb rc) s = .next (s.faulted 5)) ∧
      (1 < m.natAbs → e < 0 → Int.gcd a m ≠ 1 → exec (.modpow rd ra rb rc) s = .next (s.faulted 8)) ∧
      (m ≠ 0 → (m.natAbs = 1 ∨ 0 ≤ e ∨ Int.gcd a m = 1) → ∃ v : Int,
        0 ≤ v ∧ v < m.natAbs ∧
        (0 ≤ e → v = a ^ e.toNat % (m.natAbs : Int)) ∧
        (e < 0 → ∀ y : Int, 0 ≤ y → y < m.natAbs → m ∣ a * y - 1 → v = y ^ (-e).toNat % (m.natAbs : Int)) ∧
        (InRange s.cfg m → InRange s.cfg v) ∧
        exec (.modpow rd ra rb rc) s = .next (s.withReg rd v).counted)

/-! ### The sponge unit -/

/-- `KINIT` and `KRESET` (45_keccak.md R240, R241): a new sponge in absorb mode at position 0 with zero lanes; `KINIT` sets the
capacity and rejects an illegal one, `KRESET` keeps it. -/
def Obligations.KinitAndKresetStartASponge : Prop :=
  EncodedAs 0x5000000000000000 0xFFFFFFFF00000000 (fun w => .kinit (w.extractLsb' 0 32)) ∧
  EncodedAs 0x5100000000000000 0xFFFFFFFFFFFFFFFF (fun _ => .kreset) ∧
  ∀ s : State,
    (∀ c : BitVec 32, (c.toNat = 0 ∨ 1600 ≤ c.toNat ∨ c.toNat % 64 ≠ 0) → exec (.kinit c) s = .next (s.faulted 6)) ∧
    (∀ c : BitVec 32, 0 < c.toNat → c.toNat < 1600 → c.toNat % 64 = 0 → ∃ t : State,
      exec (.kinit c) s = .next t ∧ t.cap.toNat = c.toNat ∧ (∀ i : Fin 25, t.lanes[i] = 0) ∧
      t = { s.counted with cap := t.cap, lanes := t.lanes, mode := .absorb, pos := 0 }) ∧
    ∃ t : State, exec .kreset s = .next t ∧ (∀ i : Fin 25, t.lanes[i] = 0) ∧
      t = { s.counted with lanes := t.lanes, mode := .absorb, pos := 0 }

/-- `KABS` (45_keccak.md R242): the loop over the bytes in ascending address order, the permutation as soon as a block is
full, as the sequence of lanes `A` and positions `p` before each byte. -/
def Obligations.KabsAbsorbsByteByByte : Prop :=
  EncodedAs 0x5200000000000000 0xFFFFFFFF00000000 (fun w => .kabs (w.extractLsb' 16 16) (w.extractLsb' 0 16)) ∧
  ∀ (s : State) (len addr : BitVec 16),
    (s.cfg.bufsz < addr.toNat + len.toNat → exec (.kabs len addr) s = .next (s.faulted 3)) ∧
    (addr.toNat + len.toNat ≤ s.cfg.bufsz → s.mode = .squeeze → exec (.kabs len addr) s = .next (s.faulted 4)) ∧
    (addr.toNat + len.toNat ≤ s.cfg.bufsz → s.mode = .absorb → s.SpongeOk →
      ∃ (A : Nat → Lanes) (p : Nat → Nat), A 0 = s.lanes ∧ p 0 = s.pos.toNat ∧
        (∀ k < len.toNat, ∃ B : Lanes, B = xorByte (A k) (p k) (readByte s (addr.toNat + k)) ∧
          A (k + 1) = (if p k + 1 = rate s then keccakF B else B) ∧
          p (k + 1) = (if p k + 1 = rate s then 0 else p k + 1)) ∧
        (∀ k ≤ len.toNat, p k < rate s) ∧
        exec (.kabs len addr) s =
          .next { s with lanes := A len.toNat, pos := BitVec.ofNat 8 (p len.toNat) }.counted)

/-- `KFLIP` (45_keccak.md R243): the permutation of the padded state, whose bytes are those of the state but for the domain
byte at the position and `0x80` in the last byte of the rate portion (both in one byte when they meet), then squeeze mode
at position 0. -/
def Obligations.KflipPadsAndPermutes : Prop :=
  EncodedAs 0x5300000000000000 0xFFFFFFFEFFFFFFFF (fun w => .kflip (w.getLsbD 32)) ∧
  ∀ (s : State) (shake : Bool),
    (s.mode = .squeeze → exec (.kflip shake) s = .next (s.faulted 4)) ∧
    (s.mode = .absorb → s.SpongeOk → ∃ P : Lanes,
      (∀ j < 200, stateByte P j =
        stateByte s.lanes j ^^^ (if j = s.pos.toNat then (if shake then 0x1F else 0x06) else 0) ^^^
          (if j = rate s - 1 then 0x80 else 0)) ∧
      exec (.kflip shake) s = .next { s with lanes := keccakF P, mode := .squeeze, pos := 0 }.counted)

/-- `KSQZ` (45_keccak.md R244), in closed form: output byte `k` is state byte `(POS + k) mod RATE` after
`floor((POS + k) / RATE)` permutations; the permutation runs only when a byte beyond the block is asked for. -/
def Obligations.KsqzDeliversTheStream : Prop :=
  EncodedAs 0x5400000000000000 0xFFFFFFFF00000000 (fun w => .ksqz (w.extractLsb' 16 16) (w.extractLsb' 0 16)) ∧
  ∀ (s : State) (len addr : BitVec 16),
    (s.cfg.bufsz < addr.toNat + len.toNat → exec (.ksqz len addr) s = .next (s.faulted 3)) ∧
    (addr.toNat + len.toNat ≤ s.cfg.bufsz → s.mode = .absorb → exec (.ksqz len addr) s = .next (s.faulted 4)) ∧
    (addr.toNat + len.toNat ≤ s.cfg.bufsz → s.mode = .squeeze → s.SpongeOk →
      (len.toNat = 0 → exec (.ksqz len addr) s = .next s.counted) ∧
      (0 < len.toNat → ∃ t : State, exec (.ksqz len addr) s = .next t ∧
        t = { s.counted with
              buf := t.buf
              lanes := keccakF^[(s.pos.toNat + len.toNat - 1) / rate s] s.lanes
              pos := BitVec.ofNat 8 ((s.pos.toNat + len.toNat - 1) % rate s + 1) } ∧
        (∀ k < len.toNat, readByte t (addr.toNat + k) =
          stateByte (keccakF^[(s.pos.toNat + k) / rate s] s.lanes) ((s.pos.toNat + k) % rate s)) ∧
        ∀ a, a < addr.toNat ∨ addr.toNat + len.toNat ≤ a → readByte t a = readByte s a))

/-- `KPERM` (45_keccak.md R245, with the 24 rounds of R230 and the constants of R233): `A i` are the lanes before round `i`;
the lanes after the last round are written, in either mode, and nothing else. -/
def Obligations.KpermRunsTwentyFourRounds : Prop :=
  EncodedAs 0x5500000000000000 0xFFFFFFFFFFFFFFFF (fun _ => .kperm) ∧
  ∀ s : State, ∃ A : Nat → Lanes, A 0 = s.lanes ∧
    A 1 = keccakRound (A 0) 0x0000000000000001 ∧ A 13 = keccakRound (A 12) 0x000000008000808B ∧
    A 2 = keccakRound (A 1) 0x0000000000008082 ∧ A 14 = keccakRound (A 13) 0x800000000000008B ∧
    A 3 = keccakRound (A 2) 0x800000000000808A ∧ A 15 = keccakRound (A 14) 0x8000000000008089 ∧
    A 4 = keccakRound (A 3) 0x8000000080008000 ∧ A 16 = keccakRound (A 15) 0x8000000000008003 ∧
    A 5 = keccakRound (A 4) 0x000000000000808B ∧ A 17 = keccakRound (A 16) 0x8000000000008002 ∧
    A 6 = keccakRound (A 5) 0x0000000080000001 ∧ A 18 = keccakRound (A 17) 0x8000000000000080 ∧
    A 7 = keccakRound (A 6) 0x8000000080008081 ∧ A 19 = keccakRound (A 18) 0x000000000000800A ∧
    A 8 = keccakRound (A 7) 0x8000000000008009 ∧ A 20 = keccakRound (A 19) 0x800000008000000A ∧
    A 9 = keccakRound (A 8) 0x000000000000008A ∧ A 21 = keccakRound (A 20) 0x8000000080008081 ∧
    A 10 = keccakRound (A 9) 0x0000000000000088 ∧ A 22 = keccakRound (A 21) 0x8000000000008080 ∧
    A 11 = keccakRound (A 10) 0x0000000080008009 ∧ A 23 = keccakRound (A 22) 0x0000000080000001 ∧
    A 12 = keccakRound (A 11) 0x000000008000000A ∧ A 24 = keccakRound (A 23) 0x8000000080008008 ∧
    exec .kperm s = .next { s with lanes := A 24 }.counted

/-- One round (45_keccak.md R231, R232), step by step: indices are modulo 5, and the lane at column `x`, row `y` is lane
`x + 5·y`. -/
def Obligations.KeccakRoundFollowsItsSteps : Prop :=
  ∀ (L : Lanes) (rc : Word), ∃ (C D : Fin 5 → Word) (T B X : Fin 5 → Fin 5 → Word),
    (∀ x : Fin 5, C x = L[x.val] ^^^ L[x.val + 5] ^^^ L[x.val + 10] ^^^ L[x.val + 15] ^^^ L[x.val + 20]) ∧
    (∀ x, D x = C (x + 4) ^^^ (C (x + 1)).rotateLeft 1) ∧
    (∀ x y : Fin 5, T x y = L[x.val + 5 * y.val] ^^^ D x) ∧
    (∀ x y : Fin 5, B y (2 * x + 3 * y) =
      (T x y).rotateLeft (#v[#v[0, 36, 3, 41, 18], #v[1, 44, 10, 45, 2], #v[62, 6, 43, 15, 61],
        #v[28, 55, 25, 21, 56], #v[27, 20, 39, 8, 14]][x][y])) ∧
    (∀ x y : Fin 5, X x y = B x y ^^^ (~~~ (B (x + 1) y) &&& B (x + 2) y)) ∧
    ∀ x y : Fin 5, (keccakRound L rc)[x.val + 5 * y.val] = if x = 0 ∧ y = 0 then X 0 0 ^^^ rc else X x y

/-- The byte view of the lanes (10_state.md R45): which bits of which lane a state byte is, and what XORing a byte into it
changes. -/
def Obligations.StateBytesAreLittleEndianInALane : Prop :=
  ∀ (A : Lanes) (j : Nat) (h : j < 200) (b : Byte),
    (stateByte A j).toNat = (A[j / 8]'(by omega)).toNat / 2 ^ (8 * (j % 8)) % 256 ∧
    (∀ i : Fin 25, (xorByte A j b)[i] = if i.val = j / 8 then A[i] ^^^ (b.setWidth 64 <<< (8 * (j % 8))) else A[i]) ∧
    ∀ k < 200, stateByte (xorByte A j b) k = if k = j then stateByte A j ^^^ b else stateByte A k

/-- Absorbing in pieces is absorbing at once (45_keccak.md R242): two `KABS` of adjacent ranges leave the lanes, the mode and
the position that one `KABS` of both leaves, from a sponge whose position is below the rate. -/
def Obligations.AbsorbingInPiecesIsAbsorbingAtOnce : Prop :=
  ∀ (s : State) (len₁ len₂ len addr addr₂ : BitVec 16), s.SpongeOk → s.mode = .absorb →
    len.toNat = len₁.toNat + len₂.toNat → addr₂.toNat = addr.toNat + len₁.toNat →
    addr.toNat + len.toNat ≤ s.cfg.bufsz →
    ∃ t u v : State, exec (.kabs len₁ addr) s = .next t ∧ exec (.kabs len₂ addr₂) t = .next u ∧
      exec (.kabs len addr) s = .next v ∧ t.cmdcnt = s.cmdcnt + 1 ∧ u = { v with cmdcnt := s.cmdcnt + 2 }

/-! ### All commands together -/

/-- A command names a register without a value as a source exactly when it faults with `InvalidRegister`, before any other
test (60_exceptions.md R286). -/
def Obligations.InvalidRegisterFaultsFirst : Prop :=
  ∀ (i : Instr) (s : State), i.WellFormed = true →
    ((∃ r ∈ sources i, s.regs[r] = none) ↔ exec i s = .next (s.faulted 2))

/-- Every command ends (60_exceptions.md R281, R283, R294): with a fault whose cause is in the command's row, that writes
the fault registers and nothing else; or completed, counted modulo `2^32`, with the fault registers, `OVR` and the
parameters as they were. -/
def Obligations.EveryCommandCompletesOrFaults : Prop :=
  ∀ (i : Instr) (s : State), ∃ t : State, exec i s = .next t ∧
    ((∃ c ∈ possibleCauses i, t = s.faulted c) ∨
      (t.cmdcnt = s.cmdcnt + 1 ∧ t.busy = false ∧ t.fault = s.fault ∧ t.cause = s.cause ∧ t.finfo = s.finfo ∧
        t.ovr = s.ovr ∧ t.pend = s.pend ∧ t.cfg = s.cfg ∧ t.bufDraw = s.bufDraw ∧ t.readDraw = s.readDraw ∧
        t.resetPin = s.resetPin ∧ t.agenda = s.agenda ∧ t.hostData = s.hostData))

/-- Only `TST` writes `FLAGS`, and only `TBIT`, `BITLEN`, `CTZ`, `ENCLEN` write `SRES` (10_state.md R30, R31). -/
def Obligations.OnlyPredicatesWriteFlagsAndScalar : Prop :=
  ∀ (i : Instr) (s t : State), exec i s = .next t →
    ((∀ ra, i ≠ .tst ra) → t.flags = s.flags) ∧
    ((∀ ra n, i ≠ .tbit ra n) → (∀ ra, i ≠ .bitlen ra) → (∀ ra, i ≠ .ctz ra) → (∀ ra m, i ≠ .enclen ra m) →
      t.sres = s.sres)

/-- Only `ST` and `KSQZ` write `BUF`, and only inside the range they name, which lies in `BUF` (20_memory.md R61, R77). -/
def Obligations.OnlyStAndKsqzWriteTheBuffer : Prop :=
  ∀ (i : Instr) (s t : State), exec i s = .next t → ∀ a : Nat, readByte t a ≠ readByte s a →
    ∃ len addr : BitVec 16, ((∃ ra m, i = .st ra m len addr) ∨ i = .ksqz len addr) ∧
      addr.toNat ≤ a ∧ a < addr.toNat + len.toNat ∧ addr.toNat + len.toNat ≤ s.cfg.bufsz

/-- A command writes no register but its destinations, gives each of them a value when it completes, and takes no
register's value away (10_state.md R23, R24). -/
def Obligations.OnlyDestinationsAreWritten : Prop :=
  ∀ (i : Instr) (s t : State), exec i s = .next t →
    (∀ r : Reg, r ∉ destinations i → t.regs[r] = s.regs[r]) ∧
    (∀ r : Reg, s.regs[r] ≠ none → t.regs[r] ≠ none) ∧
    (t.cmdcnt = s.cmdcnt + 1 → ∀ r ∈ destinations i, t.regs[r] ≠ none)

/-- Only `KINIT` writes `CAP`; only `KINIT`, `KRESET` and `KFLIP` write `MODE`; only the `K` commands write the lanes, and of
these `KPERM` leaves `POS` (10_state.md R40, R41, R43; 45_keccak.md R245). -/
def Obligations.OnlySpongeCommandsWriteTheSponge : Prop :=
  ∀ (i : Instr) (s t : State), exec i s = .next t →
    ((∀ c, i ≠ .kinit c) →
      t.cap = s.cap ∧
      (i ≠ .kreset → (∀ b, i ≠ .kflip b) →
        t.mode = s.mode ∧
        ((∀ n a, i ≠ .kabs n a) → (∀ n a, i ≠ .ksqz n a) → t.pos = s.pos ∧ (i ≠ .kperm → t.lanes = s.lanes))))

/-- Storing and loading back (44_moves_encoding.md R219): a value that fits comes back; a string whose reading is in range
is stored by `ST` of its length, here into any range of `BUF`, as it was read; and with the least length an unsigned
encoding has a top byte that is not 0. The empty string in a signed mode is the exception: `LD` reads 0 and `ST` of 0
faults, as R216 says and R219 does not; the model follows R216, which is its choice (log entry 21). -/
def Obligations.StoreAndLoadRoundTrip : Prop :=
  (∀ (s : State) (rd ra : Reg) (m : Codec) (len addr : BitVec 16) (v : Int),
    s.regs[ra] = some v → InRange s.cfg v → Fits m v len.toNat → addr.toNat + len.toNat ≤ s.cfg.bufsz →
    ∃ t u : State, exec (.st ra m len addr) s = .next t ∧ exec (.ld rd m len addr) t = .next u ∧
      u.regs[rd] = some v ∧
      (Unsigned m → (∀ k < len.toNat, ¬Fits m v k) → 0 < len.toNat →
        readByte t (addr.toNat + if m = .ule then len.toNat - 1 else 0) ≠ 0)) ∧
  ∀ (s : State) (rd : Reg) (m : Codec) (len addr addr₂ : BitVec 16),
    InRange s.cfg (reading m (fun k => readByte s (addr.toNat + k)) len.toNat) →
    addr.toNat + len.toNat ≤ s.cfg.bufsz → addr₂.toNat + len.toNat ≤ s.cfg.bufsz →
    ∃ t u : State, exec (.ld rd m len addr) s = .next t ∧ t.fault = s.fault ∧ t.cmdcnt = s.cmdcnt + 1 ∧
      exec (.st rd m len addr₂) t = .next u ∧
      (0 < len.toNat ∨ Unsigned m →
        u.fault = s.fault ∧ u.cmdcnt = s.cmdcnt + 2 ∧
        (∀ k < len.toNat, readByte u (addr₂.toNat + k) = readByte s (addr.toNat + k)) ∧
        ∀ a, a < addr₂.toNat ∨ addr₂.toNat + len.toNat ≤ a → readByte u a = readByte s a) ∧
      (len.toNat = 0 → ¬Unsigned m → u = t.faulted 9)

/-! ### The reference datapath -/

/-- Montgomery parameters and reduction (43_modpow.md R187, R188): the word inverse, and the reduced value. -/
def Obligations.MontgomeryReductionIsCorrect : Prop :=
  ∀ m₁ T : Nat, m₁ % 2 = 1 → 1 < m₁ →
    m₁ < montR m₁ ∧ montWordInverse m₁ < 2 ^ 64 ∧ (m₁ * montWordInverse m₁ + 1) % 2 ^ 64 = 0 ∧
    (T < m₁ * montR m₁ → redc m₁ T < m₁ ∧ redc m₁ T * montR m₁ ≡ T [MOD m₁])

/-- The datapath of `MODINV` (42_modinv_gcd.md R167 to R170) gives the one inverse in `[0, m)`. -/
def Obligations.InverseDatapathAgrees : Prop :=
  ∀ (a : Int) (m : Nat), 0 < m → Int.gcd a m = 1 →
    inverseDatapath a m < m ∧ (m : Int) ∣ a * inverseDatapath a m - 1

/-- The datapath of `MODPOW` (43_modpow.md R194) returns the modular power that the command writes, wherever the command does
not fault. -/
def Obligations.ModpowDatapathAgrees : Prop :=
  ∀ (s : State) (rd ra rb rc : Reg) (a e m : Int),
    s.regs[ra] = some a → s.regs[rb] = some e → s.regs[rc] = some m →
    1 < m.natAbs → (0 ≤ e ∨ Int.gcd a m = 1) →
    exec (.modpow rd ra rb rc) s = .next (s.withReg rd (mpowDatapath a e m.natAbs)).counted

/-! ### The host's side and the resets -/

/-- A write of `CMD` (10_state.md R33): accepted by an idle block that has not faulted, dropped with `OVR` set while the
block is busy, dropped without a trace while it is faulted. -/
def Obligations.CommandWriteIsAcceptedOrDropped : Prop :=
  ∀ (s : State) (rest : List Turn) (w : Word), HostTurn s (.write 0x000 8 w) rest →
    (s.busy = false → s.fault = false → step s = .next { s with agenda := rest, pend := w, busy := true }) ∧
    (s.busy = true → step s = .next { s with agenda := rest, ovr := true }) ∧
    (s.busy = false → s.fault = true → step s = .next { s with agenda := rest })

/-- The busy window (20_memory.md R72): a read of `STATUS` returns its fields (10_state.md R34) with `BUSY`, bit 0, at 1, a
write of `CTRL` with bit 0 set resets, any other read returns some value and changes nothing, any other write is dropped
and sets `OVR`. That the reserved offsets above `BUF` count among the accesses is the model's choice (log entry 10). -/
def Obligations.BusyWindowProtectsTheBlock : Prop :=
  ∀ (s : State) (rest : List Turn) (off size : Nat) (v : Word), s.busy = true → s.cfg.Legal →
    (RegisterAccess off size ∨ BufferAccess s.cfg off size ∨ ReservedAccess s.cfg off size) →
    (HostTurn s (.read off size) rest → ∃ d n,
      step s = .next { s with agenda := rest, hostData := some d, readDraw := n } ∧
      (off = 0x008 → n = s.readDraw ∧ d.toNat =
        s.cmdcnt.toNat * 2 ^ 32 + s.cause.toNat * 2 ^ 8 + s.ovr.toNat * 4 + s.fault.toNat * 2 + 1)) ∧
    (HostTurn s (.write off size v) rest →
      (off = 0x020 → v.getLsbD 0 = true → ∃ t, step s = .next t ∧ t.IsReset) ∧
      (¬(off = 0x020 ∧ v.getLsbD 0 = true) → step s = .next { s with agenda := rest, ovr := true }))

/-- The register map of an idle block (10_state.md R29, R31, R32, R34, R36 to R39): what each register read returns, that
a read changes nothing, and that a write of a read-only or reserved register, or of `CTRL` with bit 0 clear, is
ignored. -/
def Obligations.RegisterMapReadsAndWrites : Prop :=
  ∀ (s : State) (rest : List Turn) (off : Nat), s.busy = false → s.cfg.Legal → off % 8 = 0 → off < 0x10000 →
    (HostTurn s (.read off 8) rest → ∃ w : Word, step s = .next { s with agenda := rest, hostData := some w } ∧
      (off = 0x008 → w.toNat =
        s.cmdcnt.toNat * 2 ^ 32 + s.cause.toNat * 2 ^ 8 + s.ovr.toNat * 4 + s.fault.toNat * 2) ∧
      (off = 0x010 → w.toNat = s.flags.toNat) ∧
      (off = 0x018 → w = s.sres) ∧
      (off = 0x028 → w = s.finfo) ∧
      (off = 0x030 → w.toNat = s.pos.toNat * 2 ^ 24 + (if s.mode = .squeeze then 2 ^ 16 else 0) + s.cap.toNat) ∧
      (off = 0x038 → w.toNat = 1 * 2 ^ 56 + 16 * 2 ^ 48 + s.cfg.bufsz * 2 ^ 16 + s.cfg.nlimb) ∧
      (∀ i : Fin 25, off = 0x100 + 8 * i.val → w = s.lanes[i]) ∧
      (off ∉ [0x008, 0x010, 0x018, 0x028, 0x030, 0x038] → (∀ i : Fin 25, off ≠ 0x100 + 8 * i.val) → w = 0)) ∧
    (∀ v, HostTurn s (.write off 8 v) rest → off ≠ 0x000 → (off = 0x020 → v.getLsbD 0 = false) →
      step s = .next { s with agenda := rest })

/-- Buffer accesses of the host to an idle block (20_memory.md R66): little-endian bus lanes; a read changes nothing of the
block, a write changes the accessed bytes and no other. -/
def Obligations.BufferAccessesMoveTheirBytes : Prop :=
  ∀ (s : State) (rest : List Turn) (a n : Nat), s.busy = false → s.cfg.Legal → BufferAccess s.cfg (0x10000 + a) n →
    (HostTurn s (.read (0x10000 + a) n) rest → ∃ w : Word,
      step s = .next { s with agenda := rest, hostData := some w } ∧ w.toNat < 256 ^ n ∧
      ∀ k < n, w.toNat / 256 ^ k % 256 = (readByte s (a + k)).toNat) ∧
    (∀ v : Word, HostTurn s (.write (0x10000 + a) n v) rest → ∃ t : State,
      step s = .next t ∧ t = { s with agenda := rest, buf := t.buf } ∧
      (∀ k < n, (readByte t (a + k)).toNat = v.toNat / 256 ^ k % 256) ∧
      ∀ x, x < a ∨ a + n ≤ x → readByte t x = readByte s x)

/-- An access that is no register access, no buffer access and no aligned 64-bit access to a reserved offset above `BUF` has
no effect on the block's state, busy or idle: a read returns some value, a write nothing (20_memory.md R66). An idle block
reads a reserved offset above `BUF` as 0 and ignores a write there (10_state.md R32). Two clauses are the model's choice.
That such a write to a busy block leaves `OVR`, too, as it was follows R66 where 20_memory.md R72 could be read otherwise
(log entry 18). That the aligned 64-bit accesses above `BUF` are accesses to reserved offsets, and so stand in the second
clause and not in the first, follows R32 where R66 could be read otherwise (log entry 10). -/
def Obligations.OtherAccessesChangeNothing : Prop :=
  ∀ (s : State) (rest : List Turn) (off size : Nat) (v : Word), s.cfg.Legal →
    (¬RegisterAccess off size → ¬BufferAccess s.cfg off size → ¬ReservedAccess s.cfg off size →
      (HostTurn s (.read off size) rest → ∃ d,
        step s = .next { s with agenda := rest, hostData := some d, readDraw := s.readDraw + 1 }) ∧
      (HostTurn s (.write off size v) rest → step s = .next { s with agenda := rest })) ∧
    (ReservedAccess s.cfg off size → s.busy = false →
      (HostTurn s (.read off size) rest → step s = .next { s with agenda := rest, hostData := some 0 }) ∧
      (HostTurn s (.write off size v) rest → step s = .next { s with agenda := rest }))

/-- Both resets (10_state.md R48; 70_reset_and_hazards.md R320, R321): the soft reset, at any time the block accepts an
access, and the release of the reset input leave the block in the reset state, whatever it was doing, and keep the
parameters. -/
def Obligations.BothResetsLeaveTheResetState : Prop :=
  ∀ (s : State) (rest : List Turn),
    (∀ v : Word, v.getLsbD 0 = true → HostTurn s (.write 0x020 8 v) rest →
      ∃ t : State, step s = .next t ∧ t.IsReset ∧ t.cfg = s.cfg ∧ t.resetPin = false ∧ t.agenda = rest) ∧
    (s.agenda = .releaseReset :: rest →
      ∃ t : State, step s = .next t ∧ t.IsReset ∧ t.cfg = s.cfg ∧ t.resetPin = false ∧ t.agenda = rest)

/-- While the reset input is asserted the block accepts no access (70_reset_and_hazards.md R320). That the assertion already
resets the block, and that a read then returns some value, is the model's choice (log entry 7). -/
def Obligations.AssertedResetAcceptsNoAccess : Prop :=
  ∀ (s : State) (rest : List Turn),
    (s.agenda = .assertReset :: rest →
      ∃ t : State, step s = .next t ∧ t.IsReset ∧ t.cfg = s.cfg ∧ t.resetPin = true ∧ t.agenda = rest) ∧
    (s.resetPin = true →
      (∀ off size v, s.agenda = .host (.write off size v) :: rest → step s = .next { s with agenda := rest }) ∧
      ∀ off size, s.agenda = .host (.read off size) :: rest → ∃ d,
        step s = .next { s with agenda := rest, hostData := some d, readDraw := s.readDraw + 1 })

/-- The fault is sticky (60_exceptions.md R298): any step of a faulted block that is no reset leaves the fault registers and
everything a command could have written as they are, but for the bytes of `BUF` that the host writes. -/
def Obligations.FaultIsStickyUntilReset : Prop :=
  ∀ s : State, s.fault = true → s.FaultOk →
    (∀ rest, s.agenda ≠ .assertReset :: rest ∧ s.agenda ≠ .releaseReset :: rest) →
    (∀ rest size v, s.agenda = .host (.write 0x020 size v) :: rest → v.getLsbD 0 = false) →
    ∃ t : State, step s = .next t ∧
      t = { s with agenda := t.agenda, hostData := t.hostData, readDraw := t.readDraw, buf := t.buf } ∧
      ((∀ rest off size v, s.agenda ≠ .host (.write off size v) :: rest) → t.buf = s.buf)

/-! ### Invariants -/

/-- Every step keeps every register's value in range, and the parameters (10_state.md R22, 00_scope.md R14). -/
def Obligations.StepKeepsRegistersInRange : Prop :=
  ∀ s t : State, s.cfg.Legal → s.RegsInRange → step s = .next t → t.cfg = s.cfg ∧ t.RegsInRange

/-- Every step keeps the buffer in canonical form and inside `BUF` (20_memory.md R61; log entry 1). -/
def Obligations.StepKeepsTheBufferCanonical : Prop :=
  ∀ s t : State, s.BufferOk → step s = .next t → t.BufferOk

/-- Every step keeps the capacity legal and the position within the rate (10_state.md R41, R44). -/
def Obligations.StepKeepsThePositionWithinTheRate : Prop :=
  ∀ s t : State, s.SpongeOk → step s = .next t → t.SpongeOk

/-- Every step keeps the fault registers 0 while no fault is recorded, and a faulted block idle with one of the ten cause
codes (10_state.md R34, R36; 60_exceptions.md R281, R284). -/
def Obligations.StepKeepsTheFaultRegisters : Prop :=
  ∀ s t : State, s.FaultOk → step s = .next t → t.FaultOk

/-- The state after reset meets all four invariants, has legal parameters, and is the reset state of 10_state.md R48. -/
def Obligations.ResetStateMeetsTheInvariants : Prop :=
  State.reset.cfg.Legal ∧ State.reset.RegsInRange ∧ State.reset.BufferOk ∧ State.reset.SpongeOk ∧
    State.reset.FaultOk ∧ State.reset.IsReset

end
end

