-- ==== Sys2Proof/Laws/Decode.lean ====
section
/-! SUPPORT. The command word and its fields determine each other, and so do the fields and the operands. -/

namespace Sys2Proof

/-- The fields of a packed word are the fields it was packed from. -/
@[simp] theorem fieldsOf_pack (f : Fields) : fieldsOf (pack f) = f := by
  obtain ⟨a, b, c, d, e, g, h⟩ := f
  simp only [fieldsOf, pack, Fields.mk.injEq]
  refine ⟨?_, ?_, ?_, ?_, ?_, ?_, ?_⟩ <;>
    · ext i hi
      simp only [BitVec.getElem_extractLsb', BitVec.getLsbD_append]
      grind

/-- A word is packed from its own fields. -/
@[simp] theorem pack_fieldsOf (w : Word) : pack (fieldsOf w) = w := by
  refine BitVec.eq_of_getLsbD_eq fun i hi => ?_
  simp only [fieldsOf, pack, BitVec.getLsbD_append, BitVec.getLsbD_extractLsb']
  grind

/-- Two words with the same fields are equal. -/
theorem pack_injective {f g : Fields} (h : pack f = pack g) : f = g := by
  rw [← fieldsOf_pack f, h, fieldsOf_pack]

/-- A mask acts field by field. -/
theorem pack_and_pack (f g : Fields) :
    pack f &&& pack g =
      pack ⟨f.op &&& g.op, f.rd &&& g.rd, f.ra &&& g.ra, f.rb &&& g.rb, f.rc &&& g.rc, f.fn &&& g.fn,
        f.imm &&& g.imm⟩ := by
  refine BitVec.eq_of_getLsbD_eq fun i hi => ?_
  simp only [pack, BitVec.getLsbD_append, BitVec.getLsbD_and]
  grind

@[simp] theorem toReg_ofReg (r : Reg) : toReg (ofReg r) = r := by
  revert r; decide

@[simp] theorem ofReg_toReg (x : BitVec 4) : ofReg (toReg x) = x := by
  revert x; decide

@[simp] theorem toCodec_ofCodec (m : Codec) : toCodec (ofCodec m) = m := by
  cases m <;> decide

@[simp] theorem ofCodec_toCodec (x : BitVec 2) : ofCodec (toCodec x) = x := by
  revert x; decide

@[simp] theorem extract_fnOfMode (m : Codec) : (fnOfMode m).extractLsb' 0 2 = ofCodec m := by
  cases m <;> decide

@[simp] theorem extract_re (x : BitVec 4) : (x ++ 0#4).extractLsb' 4 4 = x := by
  revert x; decide

theorem getLsbD_shake (b : Bool) : ((0 : BitVec 7) ++ BitVec.ofBool b).getLsbD 0 = b := by
  cases b <;> decide

@[simp] theorem extract_addr (len addr : BitVec 16) : (len ++ addr).extractLsb' 0 16 = addr := by
  ext i hi
  simp only [BitVec.getElem_extractLsb', BitVec.getLsbD_append]
  grind

@[simp] theorem extract_len (len addr : BitVec 16) : (len ++ addr).extractLsb' 16 16 = len := by
  ext i hi
  simp only [BitVec.getElem_extractLsb', BitVec.getLsbD_append]
  grind

/-- The decoder, in three cases: no row, a field that is not live, and a row whose fields stand. -/
theorem decode_eq (w : Word) :
    decode w =
      match rowOf (fieldsOf w).op with
      | none => .error .unassignedOp
      | some row =>
        if w &&& row.mask ≠ row.pattern then .error .nonzeroField
        else if (row.build (fieldsOf w)).WellFormed then .ok (row.build (fieldsOf w))
        else .error .equalDestinations := rfl

end Sys2Proof
end

