-- ==== Sys2Proof/Laws/State.lean ====
section
/-! SUPPORT. What each named update of the state leaves in each field: one lemma per field per update. -/

namespace Sys2Proof.Machine

@[simp] theorem writeReg_cfg (s : State) (r : Reg) (v : Int) : (writeReg s r v).cfg = s.cfg := rfl
@[simp] theorem writeReg_regs (s : State) (r : Reg) (v : Int) : (writeReg s r v).regs = s.regs.set r (some v) := rfl
@[simp] theorem writeReg_flags (s : State) (r : Reg) (v : Int) : (writeReg s r v).flags = s.flags := rfl
@[simp] theorem writeReg_sres (s : State) (r : Reg) (v : Int) : (writeReg s r v).sres = s.sres := rfl
@[simp] theorem writeReg_busy (s : State) (r : Reg) (v : Int) : (writeReg s r v).busy = s.busy := rfl
@[simp] theorem writeReg_fault (s : State) (r : Reg) (v : Int) : (writeReg s r v).fault = s.fault := rfl
@[simp] theorem writeReg_ovr (s : State) (r : Reg) (v : Int) : (writeReg s r v).ovr = s.ovr := rfl
@[simp] theorem writeReg_cause (s : State) (r : Reg) (v : Int) : (writeReg s r v).cause = s.cause := rfl
@[simp] theorem writeReg_cmdcnt (s : State) (r : Reg) (v : Int) : (writeReg s r v).cmdcnt = s.cmdcnt := rfl
@[simp] theorem writeReg_finfo (s : State) (r : Reg) (v : Int) : (writeReg s r v).finfo = s.finfo := rfl
@[simp] theorem writeReg_pend (s : State) (r : Reg) (v : Int) : (writeReg s r v).pend = s.pend := rfl
@[simp] theorem writeReg_lanes (s : State) (r : Reg) (v : Int) : (writeReg s r v).lanes = s.lanes := rfl
@[simp] theorem writeReg_cap (s : State) (r : Reg) (v : Int) : (writeReg s r v).cap = s.cap := rfl
@[simp] theorem writeReg_mode (s : State) (r : Reg) (v : Int) : (writeReg s r v).mode = s.mode := rfl
@[simp] theorem writeReg_pos (s : State) (r : Reg) (v : Int) : (writeReg s r v).pos = s.pos := rfl
@[simp] theorem writeReg_buf (s : State) (r : Reg) (v : Int) : (writeReg s r v).buf = s.buf := rfl
@[simp] theorem writeReg_bufDraw (s : State) (r : Reg) (v : Int) : (writeReg s r v).bufDraw = s.bufDraw := rfl
@[simp] theorem writeReg_readDraw (s : State) (r : Reg) (v : Int) : (writeReg s r v).readDraw = s.readDraw := rfl
@[simp] theorem writeReg_resetPin (s : State) (r : Reg) (v : Int) : (writeReg s r v).resetPin = s.resetPin := rfl
@[simp] theorem writeReg_agenda (s : State) (r : Reg) (v : Int) : (writeReg s r v).agenda = s.agenda := rfl
@[simp] theorem writeReg_hostData (s : State) (r : Reg) (v : Int) : (writeReg s r v).hostData = s.hostData := rfl

@[simp] theorem writeFlags_cfg (s : State) (f : BitVec 4) : (writeFlags s f).cfg = s.cfg := rfl
@[simp] theorem writeFlags_regs (s : State) (f : BitVec 4) : (writeFlags s f).regs = s.regs := rfl
@[simp] theorem writeFlags_flags (s : State) (f : BitVec 4) : (writeFlags s f).flags = f := rfl
@[simp] theorem writeFlags_sres (s : State) (f : BitVec 4) : (writeFlags s f).sres = s.sres := rfl
@[simp] theorem writeFlags_busy (s : State) (f : BitVec 4) : (writeFlags s f).busy = s.busy := rfl
@[simp] theorem writeFlags_fault (s : State) (f : BitVec 4) : (writeFlags s f).fault = s.fault := rfl
@[simp] theorem writeFlags_ovr (s : State) (f : BitVec 4) : (writeFlags s f).ovr = s.ovr := rfl
@[simp] theorem writeFlags_cause (s : State) (f : BitVec 4) : (writeFlags s f).cause = s.cause := rfl
@[simp] theorem writeFlags_cmdcnt (s : State) (f : BitVec 4) : (writeFlags s f).cmdcnt = s.cmdcnt := rfl
@[simp] theorem writeFlags_finfo (s : State) (f : BitVec 4) : (writeFlags s f).finfo = s.finfo := rfl
@[simp] theorem writeFlags_pend (s : State) (f : BitVec 4) : (writeFlags s f).pend = s.pend := rfl
@[simp] theorem writeFlags_lanes (s : State) (f : BitVec 4) : (writeFlags s f).lanes = s.lanes := rfl
@[simp] theorem writeFlags_cap (s : State) (f : BitVec 4) : (writeFlags s f).cap = s.cap := rfl
@[simp] theorem writeFlags_mode (s : State) (f : BitVec 4) : (writeFlags s f).mode = s.mode := rfl
@[simp] theorem writeFlags_pos (s : State) (f : BitVec 4) : (writeFlags s f).pos = s.pos := rfl
@[simp] theorem writeFlags_buf (s : State) (f : BitVec 4) : (writeFlags s f).buf = s.buf := rfl
@[simp] theorem writeFlags_bufDraw (s : State) (f : BitVec 4) : (writeFlags s f).bufDraw = s.bufDraw := rfl
@[simp] theorem writeFlags_readDraw (s : State) (f : BitVec 4) : (writeFlags s f).readDraw = s.readDraw := rfl
@[simp] theorem writeFlags_resetPin (s : State) (f : BitVec 4) : (writeFlags s f).resetPin = s.resetPin := rfl
@[simp] theorem writeFlags_agenda (s : State) (f : BitVec 4) : (writeFlags s f).agenda = s.agenda := rfl
@[simp] theorem writeFlags_hostData (s : State) (f : BitVec 4) : (writeFlags s f).hostData = s.hostData := rfl

@[simp] theorem writeSres_cfg (s : State) (v : Nat) : (writeSres s v).cfg = s.cfg := rfl
@[simp] theorem writeSres_regs (s : State) (v : Nat) : (writeSres s v).regs = s.regs := rfl
@[simp] theorem writeSres_flags (s : State) (v : Nat) : (writeSres s v).flags = s.flags := rfl
@[simp] theorem writeSres_sres (s : State) (v : Nat) : (writeSres s v).sres = BitVec.ofNat 64 v := rfl
@[simp] theorem writeSres_busy (s : State) (v : Nat) : (writeSres s v).busy = s.busy := rfl
@[simp] theorem writeSres_fault (s : State) (v : Nat) : (writeSres s v).fault = s.fault := rfl
@[simp] theorem writeSres_ovr (s : State) (v : Nat) : (writeSres s v).ovr = s.ovr := rfl
@[simp] theorem writeSres_cause (s : State) (v : Nat) : (writeSres s v).cause = s.cause := rfl
@[simp] theorem writeSres_cmdcnt (s : State) (v : Nat) : (writeSres s v).cmdcnt = s.cmdcnt := rfl
@[simp] theorem writeSres_finfo (s : State) (v : Nat) : (writeSres s v).finfo = s.finfo := rfl
@[simp] theorem writeSres_pend (s : State) (v : Nat) : (writeSres s v).pend = s.pend := rfl
@[simp] theorem writeSres_lanes (s : State) (v : Nat) : (writeSres s v).lanes = s.lanes := rfl
@[simp] theorem writeSres_cap (s : State) (v : Nat) : (writeSres s v).cap = s.cap := rfl
@[simp] theorem writeSres_mode (s : State) (v : Nat) : (writeSres s v).mode = s.mode := rfl
@[simp] theorem writeSres_pos (s : State) (v : Nat) : (writeSres s v).pos = s.pos := rfl
@[simp] theorem writeSres_buf (s : State) (v : Nat) : (writeSres s v).buf = s.buf := rfl
@[simp] theorem writeSres_bufDraw (s : State) (v : Nat) : (writeSres s v).bufDraw = s.bufDraw := rfl
@[simp] theorem writeSres_readDraw (s : State) (v : Nat) : (writeSres s v).readDraw = s.readDraw := rfl
@[simp] theorem writeSres_resetPin (s : State) (v : Nat) : (writeSres s v).resetPin = s.resetPin := rfl
@[simp] theorem writeSres_agenda (s : State) (v : Nat) : (writeSres s v).agenda = s.agenda := rfl
@[simp] theorem writeSres_hostData (s : State) (v : Nat) : (writeSres s v).hostData = s.hostData := rfl

@[simp] theorem writeBytes_cfg (s : State) (a : Nat) (bs : List Byte) : (writeBytes s a bs).cfg = s.cfg := rfl
@[simp] theorem writeBytes_regs (s : State) (a : Nat) (bs : List Byte) : (writeBytes s a bs).regs = s.regs := rfl
@[simp] theorem writeBytes_flags (s : State) (a : Nat) (bs : List Byte) : (writeBytes s a bs).flags = s.flags := rfl
@[simp] theorem writeBytes_sres (s : State) (a : Nat) (bs : List Byte) : (writeBytes s a bs).sres = s.sres := rfl
@[simp] theorem writeBytes_busy (s : State) (a : Nat) (bs : List Byte) : (writeBytes s a bs).busy = s.busy := rfl
@[simp] theorem writeBytes_fault (s : State) (a : Nat) (bs : List Byte) : (writeBytes s a bs).fault = s.fault := rfl
@[simp] theorem writeBytes_ovr (s : State) (a : Nat) (bs : List Byte) : (writeBytes s a bs).ovr = s.ovr := rfl
@[simp] theorem writeBytes_cause (s : State) (a : Nat) (bs : List Byte) : (writeBytes s a bs).cause = s.cause := rfl
@[simp] theorem writeBytes_cmdcnt (s : State) (a : Nat) (bs : List Byte) : (writeBytes s a bs).cmdcnt = s.cmdcnt := rfl
@[simp] theorem writeBytes_finfo (s : State) (a : Nat) (bs : List Byte) : (writeBytes s a bs).finfo = s.finfo := rfl
@[simp] theorem writeBytes_pend (s : State) (a : Nat) (bs : List Byte) : (writeBytes s a bs).pend = s.pend := rfl
@[simp] theorem writeBytes_lanes (s : State) (a : Nat) (bs : List Byte) : (writeBytes s a bs).lanes = s.lanes := rfl
@[simp] theorem writeBytes_cap (s : State) (a : Nat) (bs : List Byte) : (writeBytes s a bs).cap = s.cap := rfl
@[simp] theorem writeBytes_mode (s : State) (a : Nat) (bs : List Byte) : (writeBytes s a bs).mode = s.mode := rfl
@[simp] theorem writeBytes_pos (s : State) (a : Nat) (bs : List Byte) : (writeBytes s a bs).pos = s.pos := rfl
@[simp] theorem writeBytes_buf (s : State) (a : Nat) (bs : List Byte) : (writeBytes s a bs).buf = insertBytes s.buf a bs := rfl
@[simp] theorem writeBytes_bufDraw (s : State) (a : Nat) (bs : List Byte) : (writeBytes s a bs).bufDraw = s.bufDraw := rfl
@[simp] theorem writeBytes_readDraw (s : State) (a : Nat) (bs : List Byte) : (writeBytes s a bs).readDraw = s.readDraw := rfl
@[simp] theorem writeBytes_resetPin (s : State) (a : Nat) (bs : List Byte) : (writeBytes s a bs).resetPin = s.resetPin := rfl
@[simp] theorem writeBytes_agenda (s : State) (a : Nat) (bs : List Byte) : (writeBytes s a bs).agenda = s.agenda := rfl
@[simp] theorem writeBytes_hostData (s : State) (a : Nat) (bs : List Byte) : (writeBytes s a bs).hostData = s.hostData := rfl

@[simp] theorem writeSponge_cfg (s : State) (A : Lanes) (m : SpongeMode) (p : Nat) : (writeSponge s A m p).cfg = s.cfg := rfl
@[simp] theorem writeSponge_regs (s : State) (A : Lanes) (m : SpongeMode) (p : Nat) : (writeSponge s A m p).regs = s.regs := rfl
@[simp] theorem writeSponge_flags (s : State) (A : Lanes) (m : SpongeMode) (p : Nat) : (writeSponge s A m p).flags = s.flags := rfl
@[simp] theorem writeSponge_sres (s : State) (A : Lanes) (m : SpongeMode) (p : Nat) : (writeSponge s A m p).sres = s.sres := rfl
@[simp] theorem writeSponge_busy (s : State) (A : Lanes) (m : SpongeMode) (p : Nat) : (writeSponge s A m p).busy = s.busy := rfl
@[simp] theorem writeSponge_fault (s : State) (A : Lanes) (m : SpongeMode) (p : Nat) : (writeSponge s A m p).fault = s.fault := rfl
@[simp] theorem writeSponge_ovr (s : State) (A : Lanes) (m : SpongeMode) (p : Nat) : (writeSponge s A m p).ovr = s.ovr := rfl
@[simp] theorem writeSponge_cause (s : State) (A : Lanes) (m : SpongeMode) (p : Nat) : (writeSponge s A m p).cause = s.cause := rfl
@[simp] theorem writeSponge_cmdcnt (s : State) (A : Lanes) (m : SpongeMode) (p : Nat) : (writeSponge s A m p).cmdcnt = s.cmdcnt := rfl
@[simp] theorem writeSponge_finfo (s : State) (A : Lanes) (m : SpongeMode) (p : Nat) : (writeSponge s A m p).finfo = s.finfo := rfl
@[simp] theorem writeSponge_pend (s : State) (A : Lanes) (m : SpongeMode) (p : Nat) : (writeSponge s A m p).pend = s.pend := rfl
@[simp] theorem writeSponge_lanes (s : State) (A : Lanes) (m : SpongeMode) (p : Nat) : (writeSponge s A m p).lanes = A := rfl
@[simp] theorem writeSponge_cap (s : State) (A : Lanes) (m : SpongeMode) (p : Nat) : (writeSponge s A m p).cap = s.cap := rfl
@[simp] theorem writeSponge_mode (s : State) (A : Lanes) (m : SpongeMode) (p : Nat) : (writeSponge s A m p).mode = m := rfl
@[simp] theorem writeSponge_pos (s : State) (A : Lanes) (m : SpongeMode) (p : Nat) : (writeSponge s A m p).pos = BitVec.ofNat 8 p := rfl
@[simp] theorem writeSponge_buf (s : State) (A : Lanes) (m : SpongeMode) (p : Nat) : (writeSponge s A m p).buf = s.buf := rfl
@[simp] theorem writeSponge_bufDraw (s : State) (A : Lanes) (m : SpongeMode) (p : Nat) : (writeSponge s A m p).bufDraw = s.bufDraw := rfl
@[simp] theorem writeSponge_readDraw (s : State) (A : Lanes) (m : SpongeMode) (p : Nat) : (writeSponge s A m p).readDraw = s.readDraw := rfl
@[simp] theorem writeSponge_resetPin (s : State) (A : Lanes) (m : SpongeMode) (p : Nat) : (writeSponge s A m p).resetPin = s.resetPin := rfl
@[simp] theorem writeSponge_agenda (s : State) (A : Lanes) (m : SpongeMode) (p : Nat) : (writeSponge s A m p).agenda = s.agenda := rfl
@[simp] theorem writeSponge_hostData (s : State) (A : Lanes) (m : SpongeMode) (p : Nat) : (writeSponge s A m p).hostData = s.hostData := rfl

@[simp] theorem enterFault_cfg (c : Cause) (s : State) : (enterFault c s).cfg = s.cfg := rfl
@[simp] theorem enterFault_regs (c : Cause) (s : State) : (enterFault c s).regs = s.regs := rfl
@[simp] theorem enterFault_flags (c : Cause) (s : State) : (enterFault c s).flags = s.flags := rfl
@[simp] theorem enterFault_sres (c : Cause) (s : State) : (enterFault c s).sres = s.sres := rfl
@[simp] theorem enterFault_busy (c : Cause) (s : State) : (enterFault c s).busy = false := rfl
@[simp] theorem enterFault_fault (c : Cause) (s : State) : (enterFault c s).fault = true := rfl
@[simp] theorem enterFault_ovr (c : Cause) (s : State) : (enterFault c s).ovr = s.ovr := rfl
@[simp] theorem enterFault_cause (c : Cause) (s : State) : (enterFault c s).cause = c.code := rfl
@[simp] theorem enterFault_cmdcnt (c : Cause) (s : State) : (enterFault c s).cmdcnt = s.cmdcnt := rfl
@[simp] theorem enterFault_finfo (c : Cause) (s : State) : (enterFault c s).finfo = s.pend := rfl
@[simp] theorem enterFault_pend (c : Cause) (s : State) : (enterFault c s).pend = s.pend := rfl
@[simp] theorem enterFault_lanes (c : Cause) (s : State) : (enterFault c s).lanes = s.lanes := rfl
@[simp] theorem enterFault_cap (c : Cause) (s : State) : (enterFault c s).cap = s.cap := rfl
@[simp] theorem enterFault_mode (c : Cause) (s : State) : (enterFault c s).mode = s.mode := rfl
@[simp] theorem enterFault_pos (c : Cause) (s : State) : (enterFault c s).pos = s.pos := rfl
@[simp] theorem enterFault_buf (c : Cause) (s : State) : (enterFault c s).buf = s.buf := rfl
@[simp] theorem enterFault_bufDraw (c : Cause) (s : State) : (enterFault c s).bufDraw = s.bufDraw := rfl
@[simp] theorem enterFault_readDraw (c : Cause) (s : State) : (enterFault c s).readDraw = s.readDraw := rfl
@[simp] theorem enterFault_resetPin (c : Cause) (s : State) : (enterFault c s).resetPin = s.resetPin := rfl
@[simp] theorem enterFault_agenda (c : Cause) (s : State) : (enterFault c s).agenda = s.agenda := rfl
@[simp] theorem enterFault_hostData (c : Cause) (s : State) : (enterFault c s).hostData = s.hostData := rfl

@[simp] theorem complete_cfg (s : State) : (complete s).cfg = s.cfg := rfl
@[simp] theorem complete_regs (s : State) : (complete s).regs = s.regs := rfl
@[simp] theorem complete_flags (s : State) : (complete s).flags = s.flags := rfl
@[simp] theorem complete_sres (s : State) : (complete s).sres = s.sres := rfl
@[simp] theorem complete_busy (s : State) : (complete s).busy = false := rfl
@[simp] theorem complete_fault (s : State) : (complete s).fault = s.fault := rfl
@[simp] theorem complete_ovr (s : State) : (complete s).ovr = s.ovr := rfl
@[simp] theorem complete_cause (s : State) : (complete s).cause = s.cause := rfl
@[simp] theorem complete_cmdcnt (s : State) : (complete s).cmdcnt = s.cmdcnt + 1 := rfl
@[simp] theorem complete_finfo (s : State) : (complete s).finfo = s.finfo := rfl
@[simp] theorem complete_pend (s : State) : (complete s).pend = s.pend := rfl
@[simp] theorem complete_lanes (s : State) : (complete s).lanes = s.lanes := rfl
@[simp] theorem complete_cap (s : State) : (complete s).cap = s.cap := rfl
@[simp] theorem complete_mode (s : State) : (complete s).mode = s.mode := rfl
@[simp] theorem complete_pos (s : State) : (complete s).pos = s.pos := rfl
@[simp] theorem complete_buf (s : State) : (complete s).buf = s.buf := rfl
@[simp] theorem complete_bufDraw (s : State) : (complete s).bufDraw = s.bufDraw := rfl
@[simp] theorem complete_readDraw (s : State) : (complete s).readDraw = s.readDraw := rfl
@[simp] theorem complete_resetPin (s : State) : (complete s).resetPin = s.resetPin := rfl
@[simp] theorem complete_agenda (s : State) : (complete s).agenda = s.agenda := rfl
@[simp] theorem complete_hostData (s : State) : (complete s).hostData = s.hostData := rfl

@[simp] theorem answerRead_cfg (v : Word) (s : State) : (answerRead v s).cfg = s.cfg := rfl
@[simp] theorem answerRead_regs (v : Word) (s : State) : (answerRead v s).regs = s.regs := rfl
@[simp] theorem answerRead_flags (v : Word) (s : State) : (answerRead v s).flags = s.flags := rfl
@[simp] theorem answerRead_sres (v : Word) (s : State) : (answerRead v s).sres = s.sres := rfl
@[simp] theorem answerRead_busy (v : Word) (s : State) : (answerRead v s).busy = s.busy := rfl
@[simp] theorem answerRead_fault (v : Word) (s : State) : (answerRead v s).fault = s.fault := rfl
@[simp] theorem answerRead_ovr (v : Word) (s : State) : (answerRead v s).ovr = s.ovr := rfl
@[simp] theorem answerRead_cause (v : Word) (s : State) : (answerRead v s).cause = s.cause := rfl
@[simp] theorem answerRead_cmdcnt (v : Word) (s : State) : (answerRead v s).cmdcnt = s.cmdcnt := rfl
@[simp] theorem answerRead_finfo (v : Word) (s : State) : (answerRead v s).finfo = s.finfo := rfl
@[simp] theorem answerRead_pend (v : Word) (s : State) : (answerRead v s).pend = s.pend := rfl
@[simp] theorem answerRead_lanes (v : Word) (s : State) : (answerRead v s).lanes = s.lanes := rfl
@[simp] theorem answerRead_cap (v : Word) (s : State) : (answerRead v s).cap = s.cap := rfl
@[simp] theorem answerRead_mode (v : Word) (s : State) : (answerRead v s).mode = s.mode := rfl
@[simp] theorem answerRead_pos (v : Word) (s : State) : (answerRead v s).pos = s.pos := rfl
@[simp] theorem answerRead_buf (v : Word) (s : State) : (answerRead v s).buf = s.buf := rfl
@[simp] theorem answerRead_bufDraw (v : Word) (s : State) : (answerRead v s).bufDraw = s.bufDraw := rfl
@[simp] theorem answerRead_readDraw (v : Word) (s : State) : (answerRead v s).readDraw = s.readDraw := rfl
@[simp] theorem answerRead_resetPin (v : Word) (s : State) : (answerRead v s).resetPin = s.resetPin := rfl
@[simp] theorem answerRead_agenda (v : Word) (s : State) : (answerRead v s).agenda = s.agenda := rfl
@[simp] theorem answerRead_hostData (v : Word) (s : State) : (answerRead v s).hostData = some v := rfl

@[simp] theorem answerUnspecified_cfg (n : Nat) (s : State) : (answerUnspecified n s).cfg = s.cfg := rfl
@[simp] theorem answerUnspecified_regs (n : Nat) (s : State) : (answerUnspecified n s).regs = s.regs := rfl
@[simp] theorem answerUnspecified_flags (n : Nat) (s : State) : (answerUnspecified n s).flags = s.flags := rfl
@[simp] theorem answerUnspecified_sres (n : Nat) (s : State) : (answerUnspecified n s).sres = s.sres := rfl
@[simp] theorem answerUnspecified_busy (n : Nat) (s : State) : (answerUnspecified n s).busy = s.busy := rfl
@[simp] theorem answerUnspecified_fault (n : Nat) (s : State) : (answerUnspecified n s).fault = s.fault := rfl
@[simp] theorem answerUnspecified_ovr (n : Nat) (s : State) : (answerUnspecified n s).ovr = s.ovr := rfl
@[simp] theorem answerUnspecified_cause (n : Nat) (s : State) : (answerUnspecified n s).cause = s.cause := rfl
@[simp] theorem answerUnspecified_cmdcnt (n : Nat) (s : State) : (answerUnspecified n s).cmdcnt = s.cmdcnt := rfl
@[simp] theorem answerUnspecified_finfo (n : Nat) (s : State) : (answerUnspecified n s).finfo = s.finfo := rfl
@[simp] theorem answerUnspecified_pend (n : Nat) (s : State) : (answerUnspecified n s).pend = s.pend := rfl
@[simp] theorem answerUnspecified_lanes (n : Nat) (s : State) : (answerUnspecified n s).lanes = s.lanes := rfl
@[simp] theorem answerUnspecified_cap (n : Nat) (s : State) : (answerUnspecified n s).cap = s.cap := rfl
@[simp] theorem answerUnspecified_mode (n : Nat) (s : State) : (answerUnspecified n s).mode = s.mode := rfl
@[simp] theorem answerUnspecified_pos (n : Nat) (s : State) : (answerUnspecified n s).pos = s.pos := rfl
@[simp] theorem answerUnspecified_buf (n : Nat) (s : State) : (answerUnspecified n s).buf = s.buf := rfl
@[simp] theorem answerUnspecified_bufDraw (n : Nat) (s : State) : (answerUnspecified n s).bufDraw = s.bufDraw := rfl
@[simp] theorem answerUnspecified_readDraw (n : Nat) (s : State) : (answerUnspecified n s).readDraw = s.readDraw + 1 := rfl
@[simp] theorem answerUnspecified_resetPin (n : Nat) (s : State) : (answerUnspecified n s).resetPin = s.resetPin := rfl
@[simp] theorem answerUnspecified_agenda (n : Nat) (s : State) : (answerUnspecified n s).agenda = s.agenda := rfl
@[simp] theorem answerUnspecified_hostData (n : Nat) (s : State) : (answerUnspecified n s).hostData = some (BitVec.ofNat 64 ((Config.freeRead s.readDraw).toNat % 2 ^ (8 * n))) := rfl

@[simp] theorem dropBusy_cfg (s : State) : (dropBusy s).cfg = s.cfg := rfl
@[simp] theorem dropBusy_regs (s : State) : (dropBusy s).regs = s.regs := rfl
@[simp] theorem dropBusy_flags (s : State) : (dropBusy s).flags = s.flags := rfl
@[simp] theorem dropBusy_sres (s : State) : (dropBusy s).sres = s.sres := rfl
@[simp] theorem dropBusy_busy (s : State) : (dropBusy s).busy = s.busy := rfl
@[simp] theorem dropBusy_fault (s : State) : (dropBusy s).fault = s.fault := rfl
@[simp] theorem dropBusy_ovr (s : State) : (dropBusy s).ovr = true := rfl
@[simp] theorem dropBusy_cause (s : State) : (dropBusy s).cause = s.cause := rfl
@[simp] theorem dropBusy_cmdcnt (s : State) : (dropBusy s).cmdcnt = s.cmdcnt := rfl
@[simp] theorem dropBusy_finfo (s : State) : (dropBusy s).finfo = s.finfo := rfl
@[simp] theorem dropBusy_pend (s : State) : (dropBusy s).pend = s.pend := rfl
@[simp] theorem dropBusy_lanes (s : State) : (dropBusy s).lanes = s.lanes := rfl
@[simp] theorem dropBusy_cap (s : State) : (dropBusy s).cap = s.cap := rfl
@[simp] theorem dropBusy_mode (s : State) : (dropBusy s).mode = s.mode := rfl
@[simp] theorem dropBusy_pos (s : State) : (dropBusy s).pos = s.pos := rfl
@[simp] theorem dropBusy_buf (s : State) : (dropBusy s).buf = s.buf := rfl
@[simp] theorem dropBusy_bufDraw (s : State) : (dropBusy s).bufDraw = s.bufDraw := rfl
@[simp] theorem dropBusy_readDraw (s : State) : (dropBusy s).readDraw = s.readDraw := rfl
@[simp] theorem dropBusy_resetPin (s : State) : (dropBusy s).resetPin = s.resetPin := rfl
@[simp] theorem dropBusy_agenda (s : State) : (dropBusy s).agenda = s.agenda := rfl
@[simp] theorem dropBusy_hostData (s : State) : (dropBusy s).hostData = s.hostData := rfl

@[simp] theorem withPending_cfg (s : State) (w : Word) : (withPending s w).cfg = s.cfg := rfl
@[simp] theorem withPending_regs (s : State) (w : Word) : (withPending s w).regs = s.regs := rfl
@[simp] theorem withPending_flags (s : State) (w : Word) : (withPending s w).flags = s.flags := rfl
@[simp] theorem withPending_sres (s : State) (w : Word) : (withPending s w).sres = s.sres := rfl
@[simp] theorem withPending_busy (s : State) (w : Word) : (withPending s w).busy = true := rfl
@[simp] theorem withPending_fault (s : State) (w : Word) : (withPending s w).fault = s.fault := rfl
@[simp] theorem withPending_ovr (s : State) (w : Word) : (withPending s w).ovr = s.ovr := rfl
@[simp] theorem withPending_cause (s : State) (w : Word) : (withPending s w).cause = s.cause := rfl
@[simp] theorem withPending_cmdcnt (s : State) (w : Word) : (withPending s w).cmdcnt = s.cmdcnt := rfl
@[simp] theorem withPending_finfo (s : State) (w : Word) : (withPending s w).finfo = s.finfo := rfl
@[simp] theorem withPending_pend (s : State) (w : Word) : (withPending s w).pend = w := rfl
@[simp] theorem withPending_lanes (s : State) (w : Word) : (withPending s w).lanes = s.lanes := rfl
@[simp] theorem withPending_cap (s : State) (w : Word) : (withPending s w).cap = s.cap := rfl
@[simp] theorem withPending_mode (s : State) (w : Word) : (withPending s w).mode = s.mode := rfl
@[simp] theorem withPending_pos (s : State) (w : Word) : (withPending s w).pos = s.pos := rfl
@[simp] theorem withPending_buf (s : State) (w : Word) : (withPending s w).buf = s.buf := rfl
@[simp] theorem withPending_bufDraw (s : State) (w : Word) : (withPending s w).bufDraw = s.bufDraw := rfl
@[simp] theorem withPending_readDraw (s : State) (w : Word) : (withPending s w).readDraw = s.readDraw := rfl
@[simp] theorem withPending_resetPin (s : State) (w : Word) : (withPending s w).resetPin = s.resetPin := rfl
@[simp] theorem withPending_agenda (s : State) (w : Word) : (withPending s w).agenda = [] := rfl
@[simp] theorem withPending_hostData (s : State) (w : Word) : (withPending s w).hostData = s.hostData := rfl

@[simp] theorem resetBlock_cfg (s : State) : (resetBlock s).cfg = s.cfg := rfl
@[simp] theorem resetBlock_regs (s : State) : (resetBlock s).regs = Vector.replicate 16 none := rfl
@[simp] theorem resetBlock_flags (s : State) : (resetBlock s).flags = 0 := rfl
@[simp] theorem resetBlock_sres (s : State) : (resetBlock s).sres = 0 := rfl
@[simp] theorem resetBlock_busy (s : State) : (resetBlock s).busy = false := rfl
@[simp] theorem resetBlock_fault (s : State) : (resetBlock s).fault = false := rfl
@[simp] theorem resetBlock_ovr (s : State) : (resetBlock s).ovr = false := rfl
@[simp] theorem resetBlock_cause (s : State) : (resetBlock s).cause = 0 := rfl
@[simp] theorem resetBlock_cmdcnt (s : State) : (resetBlock s).cmdcnt = 0 := rfl
@[simp] theorem resetBlock_finfo (s : State) : (resetBlock s).finfo = 0 := rfl
@[simp] theorem resetBlock_pend (s : State) : (resetBlock s).pend = 0 := rfl
@[simp] theorem resetBlock_lanes (s : State) : (resetBlock s).lanes = Vector.replicate 25 0 := rfl
@[simp] theorem resetBlock_cap (s : State) : (resetBlock s).cap = 256 := rfl
@[simp] theorem resetBlock_mode (s : State) : (resetBlock s).mode = .absorb := rfl
@[simp] theorem resetBlock_pos (s : State) : (resetBlock s).pos = 0 := rfl
@[simp] theorem resetBlock_buf (s : State) : (resetBlock s).buf = [] := rfl
@[simp] theorem resetBlock_bufDraw (s : State) : (resetBlock s).bufDraw = s.bufDraw + 1 := rfl
@[simp] theorem resetBlock_readDraw (s : State) : (resetBlock s).readDraw = s.readDraw := rfl
@[simp] theorem resetBlock_resetPin (s : State) : (resetBlock s).resetPin = s.resetPin := rfl
@[simp] theorem resetBlock_agenda (s : State) : (resetBlock s).agenda = s.agenda := rfl
@[simp] theorem resetBlock_hostData (s : State) : (resetBlock s).hostData = s.hostData := rfl

end Sys2Proof.Machine
end

