-- ==== Sys2Proof/Laws/Memory.lean ====
section
/-! SUPPORT. The buffer: a byte read after a write, the canonical form, and the addresses listed. -/

namespace Sys2Proof.Machine

theorem lookupByte_insertByte (m : Memory) (a : Nat) (b : Byte) (x : Nat) :
    lookupByte (insertByte m a b) x = if x = a then some b else lookupByte m x := by
  induction m with
  | nil => simp [insertByte, lookupByte, eq_comm]
  | cons c m ih =>
    obtain ⟨y, d⟩ := c
    simp only [insertByte]
    split_ifs with h1 h2 h3 h4 <;> simp only [lookupByte, ih] <;> split_ifs <;> first | rfl | omega

theorem mem_insertByte {m : Memory} {a : Nat} {b : Byte} {c : Host.Cell} (h : c ∈ insertByte m a b) :
    c = (a, b) ∨ c ∈ m := by
  induction m with
  | nil => simpa [insertByte] using h
  | cons d m ih =>
    obtain ⟨y, e⟩ := d
    simp only [insertByte] at h
    split_ifs at h <;> simp_all <;> tauto

/-- A written byte keeps the canonical form. -/
theorem insertByte_wf {m : Memory} (a : Nat) (b : Byte) (h : Memory.wf m) : Memory.wf (insertByte m a b) := by
  induction m with
  | nil => simp [insertByte, Memory.wf]
  | cons c m ih =>
    obtain ⟨y, d⟩ := c
    simp only [Memory.wf, List.map_cons, List.pairwise_cons, List.mem_map, forall_exists_index, and_imp,
      forall_apply_eq_imp_iff₂] at h ih ⊢
    obtain ⟨hy, hm⟩ := h
    simp only [insertByte]
    split_ifs with h1 h2
    · refine List.pairwise_cons.mpr ⟨?_, List.pairwise_cons.mpr ⟨by simpa using hy, hm⟩⟩
      intro z hz
      simp only [List.map_cons, List.mem_cons, List.mem_map] at hz
      obtain rfl | ⟨c, hc, rfl⟩ := hz
      · exact h1
      · exact h1.trans (hy c hc)
    · subst h2
      exact List.pairwise_cons.mpr ⟨by simpa using hy, hm⟩
    · refine List.pairwise_cons.mpr ⟨?_, ih hm⟩
      intro z hz
      obtain ⟨c, hc, rfl⟩ := List.mem_map.mp hz
      obtain rfl | hc := mem_insertByte hc
      · show y < a
        omega
      · exact hy c hc

/-- Written bytes keep the canonical form. -/
theorem insertBytes_wf (bs : List Byte) : ∀ {m : Memory} (a : Nat), Memory.wf m → Memory.wf (insertBytes m a bs) := by
  induction bs with
  | nil => intro m a h; exact h
  | cons b bs ih => intro m a h; exact ih (a + 1) (insertByte_wf a b h)

/-- An entry after a write is an old one or one of the stored range. -/
theorem mem_insertBytes (bs : List Byte) : ∀ {m : Memory} {a : Nat} {c : Host.Cell},
    c ∈ insertBytes m a bs → (a ≤ c.1 ∧ c.1 < a + bs.length) ∨ c ∈ m := by
  induction bs with
  | nil => intro m a c h; exact .inr h
  | cons b bs ih =>
    intro m a c h
    obtain h | h := ih h
    · simp only [List.length_cons]; omega
    · obtain rfl | h := mem_insertByte h
      · simp
      · exact .inr h

/-- Looking up after a write: the stored byte inside the range, the old entry outside it. -/
theorem lookupByte_insertBytes (bs : List Byte) : ∀ (m : Memory) (a x : Nat),
    lookupByte (insertBytes m a bs) x = if a ≤ x ∧ x < a + bs.length then bs[x - a]? else lookupByte m x := by
  induction bs with
  | nil => intro m a x; simp [insertBytes]
  | cons b bs ih =>
    intro m a x
    simp only [insertBytes, ih, lookupByte_insertByte, List.length_cons]
    by_cases h : x = a
    · subst h; simp
    · by_cases h2 : a ≤ x ∧ x < a + (bs.length + 1)
      · have h3 : a + 1 ≤ x ∧ x < a + 1 + bs.length := by omega
        have h4 : x - a = (x - (a + 1)) + 1 := by omega
        simp only [if_pos h2, if_pos h3, h4, List.getElem?_cons_succ]
      · have h3 : ¬(a + 1 ≤ x ∧ x < a + 1 + bs.length) := by omega
        simp only [if_neg h2, if_neg h3, if_neg h]

/-- A byte read after a write, inside the stored range: the stored byte. -/
theorem readByte_writeBytes_inside {s : State} {a : Nat} {bs : List Byte} {k : Nat} (h : k < bs.length) :
    readByte (writeBytes s a bs) (a + k) = bs[k] := by
  simp [readByte, lookupByte_insertBytes, h]

/-- A byte read after a write, outside the stored range: what it was. -/
theorem readByte_writeBytes_outside {s : State} {a : Nat} {bs : List Byte} {x : Nat}
    (h : ¬(a ≤ x ∧ x < a + bs.length)) : readByte (writeBytes s a bs) x = readByte s x := by
  simp only [readByte, writeBytes_buf, writeBytes_bufDraw, lookupByte_insertBytes, if_neg h]

/-- A byte depends on the written bytes and the draw alone. -/
theorem readByte_congr {s t : State} (hb : t.buf = s.buf) (hd : t.bufDraw = s.bufDraw) (a : Nat) :
    readByte t a = readByte s a := by simp [readByte, hb, hd]

theorem readBytes_length (s : State) (a n : Nat) : (readBytes s a n).length = n := by simp [readBytes]

/-- An encoding has exactly the bytes asked for. -/
theorem encodeBytes_length (m : Codec) (v : Int) (n : Nat) : (encodeBytes m v n).length = n := by
  unfold encodeBytes encodeLE encodeBE
  split <;> simp

/-- The host writes exactly the bytes of its access. -/
theorem wordBytes_length (v : Word) (n : Nat) : (wordBytes v n).length = n := by simp [wordBytes]

/-- A squeeze delivers exactly the bytes asked for. -/
theorem squeeze_length (r n : Nat) : ∀ st, (squeeze r n st).1.length = n := by
  induction n with
  | zero => intro st; rfl
  | succ n ih => intro st; simp [squeeze, ih]

theorem reset_memory_wf : Memory.wf State.reset.buf := by decide

end Sys2Proof.Machine
end

