-- ==== Sys2Proof/Laws/Ops.lean ====
section
/-! SUPPORT. What each shared operation of the commands can do, said once: the tests, the source read, the end of a
command, and the engine's turn. -/

namespace Sys2Proof.Machine

@[simp] theorem require_of_true {p : Prop} [Decidable p] (c : Cause) (h : p) : require p c = .ok () := by
  simp [require, h]

@[simp] theorem require_of_false {p : Prop} [Decidable p] (c : Cause) (h : ¬p) : require p c = .error c := by
  simp [require, h]

/-- A test answers nothing but that its condition holds. -/
theorem require_ok_iff {p : Prop} [Decidable p] {c : Cause} {u : Unit} : require p c = .ok u ↔ p := by
  unfold require; split <;> simp_all

/-- A test that fails names its own cause, and its condition is false. -/
theorem require_error_iff {p : Prop} [Decidable p] {c d : Cause} : require p c = .error d ↔ ¬p ∧ d = c := by
  unfold require; split <;> simp_all [eq_comm]

theorem source_of_some {s : State} {r : Reg} {v : Int} (h : s.regs[r] = some v) : source s r = .ok v := by
  simp [source, h]

theorem source_of_none {s : State} {r : Reg} (h : s.regs[r] = none) : source s r = .error .invalidRegister := by
  simp [source, h]

/-- A source read answers a value only where the register has that value. -/
theorem source_ok_iff {s : State} {r : Reg} {v : Int} : source s r = .ok v ↔ s.regs[r] = some v := by
  unfold source; split <;> simp_all

/-- A source read fails only with `InvalidRegister`, where the valid bit is 0. -/
theorem source_error_iff {s : State} {r : Reg} {c : Cause} :
    source s r = .error c ↔ s.regs[r] = none ∧ c = .invalidRegister := by
  unfold source
  cases h : s.regs[r] <;> simp [eq_comm]

/-- A register read after a register write: the value written, or what the register was. -/
theorem writeReg_get (s : State) (r q : Reg) (v : Int) :
    (writeReg s r v).regs[q] = if q = r then some v else s.regs[q] := by
  simp only [writeReg_regs, Fin.getElem_fin, Vector.getElem_set, eq_comm, Fin.ext_iff]

/-- In a sequence of tests, what follows runs only where the first test answers. -/
theorem bind_ok_iff {α β : Type} {x : Except Cause α} {f : α → Except Cause β} {b : β} :
    (x >>= f) = .ok b ↔ ∃ a, x = .ok a ∧ f a = .ok b := by
  cases x <;> simp [bind, Except.bind]

/-- In a sequence of tests, the first that fails decides the cause. -/
theorem bind_error_iff {α β : Type} {x : Except Cause α} {f : α → Except Cause β} {c : Cause} :
    (x >>= f) = .error c ↔ x = .error c ∨ ∃ a, x = .ok a ∧ f a = .error c := by
  cases x <;> simp [bind, Except.bind]

@[simp] theorem ok_bind {α β : Type} (a : α) (f : α → Except Cause β) : ((.ok a : Except Cause α) >>= f) = f a := rfl

@[simp] theorem error_bind {α β : Type} (c : Cause) (f : α → Except Cause β) :
    ((.error c : Except Cause α) >>= f) = .error c := rfl

@[simp] theorem finish_ok (s t : State) : finish s (.ok t) = .next (complete t) := rfl

@[simp] theorem finish_error (s : State) (c : Cause) : finish s (.error c) = .next (enterFault c s) := rfl

/-- The end of a command is its completion with its effects, or the fault entry from the state it ran in. -/
theorem finish_cases {s t : State} {r : Except Cause State} (h : finish s r = .next t) :
    (∃ u, r = .ok u ∧ t = complete u) ∨ ∃ c, r = .error c ∧ t = enterFault c s := by
  cases r with
  | ok u => exact .inl ⟨u, rfl, by simpa [eq_comm] using h⟩
  | error c => exact .inr ⟨c, rfl, by simpa [eq_comm] using h⟩

/-- Every command ends in a next state. -/
theorem finish_is_next (s : State) (r : Except Cause State) : ∃ t, finish s r = .next t := by
  cases r <;> exact ⟨_, rfl⟩

/-- The engine's step is the decoded command's, or the fault entry of an illegal word. -/
theorem engineStep_cases (s : State) :
    (∃ i, decode s.pend = .ok i ∧ engineStep s = exec i s) ∨
      ((∃ e, decode s.pend = .error e) ∧ engineStep s = .next (enterFault .illegalCommand s)) := by
  unfold engineStep
  cases h : decode s.pend with
  | ok i => exact .inl ⟨i, rfl, rfl⟩
  | error e => exact .inr ⟨⟨e, rfl⟩, rfl⟩

theorem engineTurn_of_busy {s : State} (h : s.busy = true) : engineTurn s = engineStep s := by simp [engineTurn, h]

theorem engineTurn_of_idle {s : State} (h : s.busy = false) : engineTurn s = .next s := by simp [engineTurn, h]

/-- Everything one step can do: the engine's turn with an empty agenda, or the first turn of the agenda. -/
theorem step_cases (s : State) :
    (s.agenda = [] ∧ step s = engineTurn s) ∨
      (∃ rest, s.agenda = .engine :: rest ∧ step s = engineTurn { s with agenda := rest }) ∨
      (∃ a rest, s.agenda = .host a :: rest ∧ step s = .next (hostAccess a { s with agenda := rest })) ∨
      (∃ rest, s.agenda = .assertReset :: rest ∧ step s = .next (assertReset { s with agenda := rest })) ∨
      (∃ rest, s.agenda = .releaseReset :: rest ∧ step s = .next (releaseReset { s with agenda := rest })) := by
  unfold step takeTurn
  cases h : s.agenda with
  | nil => exact .inl ⟨rfl, rfl⟩
  | cons t rest => cases t <;> simp

/-- A buffer access is aligned, of 1, 2, 4 or 8 bytes, and inside `BUF`. -/
theorem targetOf_buffer {c : Config} {off size a n : Nat} (h : targetOf c off size = .buffer a n) :
    n = size ∧ (n = 1 ∨ n = 2 ∨ n = 4 ∨ n = 8) ∧ a % n = 0 ∧ a + n ≤ c.bufsz := by
  simp only [targetOf] at h
  split_ifs at h with h1 h2 h3 h4
  obtain ⟨rfl, rfl⟩ := Target.buffer.inj h
  exact ⟨rfl, h3⟩

/-- Everything a host access can leave: the state itself, an answered read, or an answered, dropped or performed
write. -/
theorem hostAccess_cases (a : HostAccess) (s : State) :
    hostAccess a s = s ∨ (∃ v, hostAccess a s = answerRead v s) ∨ (∃ n, hostAccess a s = answerUnspecified n s) ∨
      (s.resetPin = false ∧ hostAccess a s = resetBlock s) ∨ (s.busy = true ∧ hostAccess a s = dropBusy s) ∨
      (∃ v, s.busy = false ∧ s.fault = false ∧ hostAccess a s = { s with pend := v, busy := true }) ∨
      ∃ b n v, s.busy = false ∧ b + n ≤ s.cfg.bufsz ∧ hostAccess a s = writeBytes s b (wordBytes v n) := by
  cases a with
  | read off size =>
    simp only [hostAccess, hostRead]
    split
    · exact .inr (.inr (.inl ⟨_, rfl⟩))
    · split
      · exact .inr (.inr (.inl ⟨_, rfl⟩))
      · split
        · exact .inr (.inr (.inl ⟨_, rfl⟩))
        · exact .inr (.inl ⟨_, rfl⟩)
      · split
        · exact .inr (.inr (.inl ⟨_, rfl⟩))
        · exact .inr (.inl ⟨_, rfl⟩)
  | write off size v =>
    simp only [hostAccess, hostWrite]
    split
    · exact .inl rfl
    · rename_i hp
      split
      · exact .inl rfl
      · split
        · exact .inr (.inr (.inr (.inl ⟨by simpa using hp, rfl⟩)))
        · split
          · rename_i hb
            exact .inr (.inr (.inr (.inr (.inl ⟨hb, rfl⟩))))
          · rename_i hb
            split
            · unfold acceptCommand
              split
              · exact .inl rfl
              · rename_i hf
                exact .inr (.inr (.inr (.inr (.inr (.inl ⟨v, by simpa using hb, by simpa using hf, rfl⟩)))))
            · exact .inl rfl
      · rename_i b n ht
        split
        · rename_i hb
          exact .inr (.inr (.inr (.inr (.inl ⟨hb, rfl⟩))))
        · rename_i hb
          refine .inr (.inr (.inr (.inr (.inr (.inr ⟨b, n, v, by simpa using hb, ?_, rfl⟩)))))
          exact (targetOf_buffer ht).2.2.2

end Sys2Proof.Machine
end

