-- ==== Sys2Proof/Laws/PerInstr.lean ====
section
/-! SUPPORT. Lemmas per constructor of `Instr`. -/

namespace Sys2Proof.Laws

/-- The opcode table's row for the command's `op` rebuilds the command from its own fields (30_encoding.md R91, R98): no
operand is dropped on the way to the fields and back. -/
def FieldsRoundTrip.Statement (i : Instr) : Prop :=
  ∃ row, rowOf (encodeFields i).op = some row ∧ row.build (encodeFields i) = i

theorem FieldsRoundTrip.nop : FieldsRoundTrip.Statement .nop :=
  ⟨_, rfl, rfl⟩

theorem FieldsRoundTrip.ldi (rd : Reg) (imm : BitVec 32) : FieldsRoundTrip.Statement (.ldi rd imm) :=
  ⟨_, rfl, by simp [encodeFields]⟩

theorem FieldsRoundTrip.mov (rd ra : Reg) : FieldsRoundTrip.Statement (.mov rd ra) :=
  ⟨_, rfl, by simp [encodeFields, fieldsR1]⟩

theorem FieldsRoundTrip.ld (rd : Reg) (mode : Codec) (len addr : BitVec 16) : FieldsRoundTrip.Statement (.ld rd mode len addr) :=
  ⟨_, rfl, by simp [encodeFields, Fields.mode, Fields.len, Fields.addr, fieldsK]⟩

theorem FieldsRoundTrip.st (ra : Reg) (mode : Codec) (len addr : BitVec 16) : FieldsRoundTrip.Statement (.st ra mode len addr) :=
  ⟨_, rfl, by simp [encodeFields, Fields.mode, Fields.len, Fields.addr, fieldsK]⟩

theorem FieldsRoundTrip.enclen (ra : Reg) (mode : Codec) : FieldsRoundTrip.Statement (.enclen ra mode) :=
  ⟨_, rfl, by simp [encodeFields, fieldsS, Fields.mode]⟩

theorem FieldsRoundTrip.add (rd ra rb : Reg) : FieldsRoundTrip.Statement (.add rd ra rb) :=
  ⟨_, rfl, by simp [encodeFields, fieldsR2]⟩

theorem FieldsRoundTrip.sub (rd ra rb : Reg) : FieldsRoundTrip.Statement (.sub rd ra rb) :=
  ⟨_, rfl, by simp [encodeFields, fieldsR2]⟩

theorem FieldsRoundTrip.neg (rd ra : Reg) : FieldsRoundTrip.Statement (.neg rd ra) :=
  ⟨_, rfl, by simp [encodeFields, fieldsR1]⟩

theorem FieldsRoundTrip.mul (rd ra rb : Reg) : FieldsRoundTrip.Statement (.mul rd ra rb) :=
  ⟨_, rfl, by simp [encodeFields, fieldsR2]⟩

theorem FieldsRoundTrip.divrem (rd rc ra rb : Reg) : FieldsRoundTrip.Statement (.divrem rd rc ra rb) :=
  ⟨_, rfl, by simp [encodeFields, fieldsR3]⟩

theorem FieldsRoundTrip.mod (rd ra rb : Reg) : FieldsRoundTrip.Statement (.mod rd ra rb) :=
  ⟨_, rfl, by simp [encodeFields, fieldsR2]⟩

theorem FieldsRoundTrip.and (rd ra rb : Reg) : FieldsRoundTrip.Statement (.and rd ra rb) :=
  ⟨_, rfl, by simp [encodeFields, fieldsR2]⟩

theorem FieldsRoundTrip.or (rd ra rb : Reg) : FieldsRoundTrip.Statement (.or rd ra rb) :=
  ⟨_, rfl, by simp [encodeFields, fieldsR2]⟩

theorem FieldsRoundTrip.xor (rd ra rb : Reg) : FieldsRoundTrip.Statement (.xor rd ra rb) :=
  ⟨_, rfl, by simp [encodeFields, fieldsR2]⟩

theorem FieldsRoundTrip.not (rd ra : Reg) : FieldsRoundTrip.Statement (.not rd ra) :=
  ⟨_, rfl, by simp [encodeFields, fieldsR1]⟩

theorem FieldsRoundTrip.shl (rd ra : Reg) (n : BitVec 32) : FieldsRoundTrip.Statement (.shl rd ra n) :=
  ⟨_, rfl, by simp [encodeFields, fieldsRI]⟩

theorem FieldsRoundTrip.shr (rd ra : Reg) (n : BitVec 32) : FieldsRoundTrip.Statement (.shr rd ra n) :=
  ⟨_, rfl, by simp [encodeFields, fieldsRI]⟩

theorem FieldsRoundTrip.tst (ra : Reg) : FieldsRoundTrip.Statement (.tst ra) :=
  ⟨_, rfl, by simp [encodeFields, fieldsS]⟩

theorem FieldsRoundTrip.tbit (ra : Reg) (i : BitVec 32) : FieldsRoundTrip.Statement (.tbit ra i) :=
  ⟨_, rfl, by simp [encodeFields, fieldsS]⟩

theorem FieldsRoundTrip.bitlen (ra : Reg) : FieldsRoundTrip.Statement (.bitlen ra) :=
  ⟨_, rfl, by simp [encodeFields, fieldsS]⟩

theorem FieldsRoundTrip.ctz (ra : Reg) : FieldsRoundTrip.Statement (.ctz ra) :=
  ⟨_, rfl, by simp [encodeFields, fieldsS]⟩

theorem FieldsRoundTrip.modinv (rd ra rb : Reg) : FieldsRoundTrip.Statement (.modinv rd ra rb) :=
  ⟨_, rfl, by simp [encodeFields, fieldsR2]⟩

theorem FieldsRoundTrip.gcd (rd ra rb : Reg) : FieldsRoundTrip.Statement (.gcd rd ra rb) :=
  ⟨_, rfl, by simp [encodeFields, fieldsR2]⟩

theorem FieldsRoundTrip.xgcd (rd rc re ra rb : Reg) : FieldsRoundTrip.Statement (.xgcd rd rc re ra rb) :=
  ⟨_, rfl, by simp [encodeFields, fieldsR3, Fields.re]⟩

theorem FieldsRoundTrip.modpow (rd ra rb rc : Reg) : FieldsRoundTrip.Statement (.modpow rd ra rb rc) :=
  ⟨_, rfl, by simp [encodeFields, fieldsR3]⟩

theorem FieldsRoundTrip.kinit (c : BitVec 32) : FieldsRoundTrip.Statement (.kinit c) :=
  ⟨_, rfl, rfl⟩

theorem FieldsRoundTrip.kreset : FieldsRoundTrip.Statement .kreset :=
  ⟨_, rfl, rfl⟩

theorem FieldsRoundTrip.kabs (len addr : BitVec 16) : FieldsRoundTrip.Statement (.kabs len addr) :=
  ⟨_, rfl, by simp [encodeFields, fieldsK, Fields.len, Fields.addr]⟩

theorem FieldsRoundTrip.kflip (shake : Bool) : FieldsRoundTrip.Statement (.kflip shake) :=
  ⟨_, rfl, congrArg Instr.kflip (getLsbD_shake shake)⟩

theorem FieldsRoundTrip.ksqz (len addr : BitVec 16) : FieldsRoundTrip.Statement (.ksqz len addr) :=
  ⟨_, rfl, by simp [encodeFields, fieldsK, Fields.len, Fields.addr]⟩

theorem FieldsRoundTrip.kperm : FieldsRoundTrip.Statement .kperm :=
  ⟨_, rfl, rfl⟩

end Sys2Proof.Laws
end

