-- ==== Sys2Proof/Machine/Asm.lean ====
section
/-! DEFINITION. The assembler text of a command (30_encoding.md R103). -/

namespace Sys2Proof.Machine

/-- `R0` … `R15`. -/
def regText (r : Reg) : String := "R" ++ toString r.val

/-- The suffix naming `mode`. -/
def codecText : Codec → String
  | .ube => ".UBE"
  | .ule => ".ULE"
  | .sbe => ".SBE"
  | .sle => ".SLE"

/-- A buffer operand, `[addr], len`. -/
def bufText (len addr : BitVec 16) : String := "[" ++ toString addr.toNat ++ "], " ++ toString len.toNat

/-- A mnemonic and its operands, separated by commas. -/
def line (mnemonic : String) (operands : List String) : String :=
  mnemonic ++ " " ++ String.intercalate ", " operands

/-- Destinations first (`rd`, `rc`, `re`), then sources (`ra`, `rb`, `rc`), then the immediate; numbers in decimal
(30_encoding.md R103). -/
def asmText : Instr → String
  | .nop => "NOP"
  | .ldi rd imm => line "LDI" [regText rd, toString imm.toInt]
  | .mov rd ra => line "MOV" [regText rd, regText ra]
  | .ld rd mode len addr => line ("LD" ++ codecText mode) [regText rd, bufText len addr]
  | .st ra mode len addr => line ("ST" ++ codecText mode) [regText ra, bufText len addr]
  | .enclen ra mode => line ("ENCLEN" ++ codecText mode) [regText ra]
  | .add rd ra rb => line "ADD" [regText rd, regText ra, regText rb]
  | .sub rd ra rb => line "SUB" [regText rd, regText ra, regText rb]
  | .neg rd ra => line "NEG" [regText rd, regText ra]
  | .mul rd ra rb => line "MUL" [regText rd, regText ra, regText rb]
  | .divrem rd rc ra rb => line "DIVREM" [regText rd, regText rc, regText ra, regText rb]
  | .mod rd ra rb => line "MOD" [regText rd, regText ra, regText rb]
  | .and rd ra rb => line "AND" [regText rd, regText ra, regText rb]
  | .or rd ra rb => line "OR" [regText rd, regText ra, regText rb]
  | .xor rd ra rb => line "XOR" [regText rd, regText ra, regText rb]
  | .not rd ra => line "NOT" [regText rd, regText ra]
  | .shl rd ra n => line "SHL" [regText rd, regText ra, toString n.toNat]
  | .shr rd ra n => line "SHR" [regText rd, regText ra, toString n.toNat]
  | .tst ra => line "TST" [regText ra]
  | .tbit ra i => line "TBIT" [regText ra, toString i.toNat]
  | .bitlen ra => line "BITLEN" [regText ra]
  | .ctz ra => line "CTZ" [regText ra]
  | .modinv rd ra rb => line "MODINV" [regText rd, regText ra, regText rb]
  | .gcd rd ra rb => line "GCD" [regText rd, regText ra, regText rb]
  | .xgcd rd rc re ra rb => line "XGCD" [regText rd, regText rc, regText re, regText ra, regText rb]
  | .modpow rd ra rb rc => line "MODPOW" [regText rd, regText ra, regText rb, regText rc]
  | .kinit c => line "KINIT" [toString c.toNat]
  | .kreset => "KRESET"
  | .kabs len addr => line "KABS" [bufText len addr]
  | .kflip shake => if shake then "KFLIP.SHAKE" else "KFLIP.SHA3"
  | .ksqz len addr => line "KSQZ" [bufText len addr]
  | .kperm => "KPERM"

end Sys2Proof.Machine
end

