-- ==== Sys2Proof/Tests/Slice0.lean ====
section
/-! SUPPORT. Tests on fixed values, from the spec's words, examples and vectors, and one witness per statement that has
hypotheses: concrete states and operands that meet them, clause by clause, at boundary values. -/

namespace Sys2Proof.Tests

open Sys2Proof.Machine

-- The kernel checks these theorems one after another; waiting for it in parallel would only hold memory.
set_option Elab.async false

/-- A small instance, with the default `BEZOUT`: `W = 128`, `BUFSZ = 256`. -/
def small : Config := { nlimb := 2, bufsz := 256, bezout := .euclid }

/-- The reset state of the small instance with the given registers. -/
def st (rs : List (Reg × Int)) : State := rs.foldl (fun s p => writeReg s p.1 p.2) { State.reset with cfg := small }

/-- The reset state of the small instance with the given bytes of `BUF` from address 64 upward. -/
def mem (bs : List Byte) : State := writeBytes (st []) 64 bs

/-- A sponge of capacity 1536 (`RATE = 8`) with the given mode and position. -/
def sponge (m : SpongeMode) (p : BitVec 8) : State := { st [] with cap := 1536, mode := m, pos := p }

/-- The next state, or the reset state where there is none. -/
def after : Host.Outcome State Fault Refusal → State
  | .next s => s
  | .fault _ => State.reset
  | .refused _ => State.reset

/-- A register after a command. -/
def reg (i : Instr) (s : State) (r : Reg) : Option Int := (after (exec i s)).regs[r]

/-- The cause code after a command. -/
def code (i : Instr) (s : State) : BitVec 8 := (after (exec i s)).cause

/-- `SRES` after a command. -/
def sres (i : Instr) (s : State) : BitVec 64 := (after (exec i s)).sres

/-- Bytes of `BUF` after a command. -/
def bytes (i : Instr) (s : State) (a n : Nat) : List Byte := readBytes (after (exec i s)) a n

/-- A block of the small instance whose next turns are given. -/
def turns (ts : List Turn) : State := { st [] with agenda := ts }

/-! ### Ill-formed commands -/

theorem test_illformed_divrem : (Instr.divrem 3 3 1 2).WellFormed = false := by decide
theorem test_illformed_xgcd_rd_rc : (Instr.xgcd 3 3 5 1 2).WellFormed = false := by decide
theorem test_illformed_xgcd_rd_re : (Instr.xgcd 3 4 3 1 2).WellFormed = false := by decide
theorem test_illformed_xgcd_rc_re : (Instr.xgcd 3 4 4 1 2).WellFormed = false := by decide
theorem test_wellformed_sources_may_be_destinations : (Instr.xgcd 1 2 3 1 2).WellFormed = true := by decide

/-! ### Decoding: the words of the examples of the command rules (files 40 to 46) -/

theorem test_decode_nop : decode 0x0100000000000000 = .ok (.nop) ∧ encode (.nop) = 0x0100000000000000 := by decide

theorem test_decode_ldi : decode 0x10100000FFFFFFF9 = .ok (.ldi 1 0xFFFFFFF9) ∧ encode (.ldi 1 0xFFFFFFF9) = 0x10100000FFFFFFF9 := by decide

theorem test_decode_mov : decode 0x1121000000000000 = .ok (.mov 2 1) ∧ encode (.mov 2 1) = 0x1121000000000000 := by decide

theorem test_decode_ld : decode 0x1210000300020040 = .ok (.ld 1 .sle 2 0x40) ∧ encode (.ld 1 .sle 2 0x40) = 0x1210000300020040 := by decide

theorem test_decode_st : decode 0x1301000200020080 = .ok (.st 1 .sbe 2 0x80) ∧ encode (.st 1 .sbe 2 0x80) = 0x1301000200020080 := by decide

theorem test_decode_enclen : decode 0x1401000200000000 = .ok (.enclen 1 .sbe) ∧ encode (.enclen 1 .sbe) = 0x1401000200000000 := by decide

theorem test_decode_add : decode 0x2031200000000000 = .ok (.add 3 1 2) ∧ encode (.add 3 1 2) = 0x2031200000000000 := by decide

theorem test_decode_sub : decode 0x2131200000000000 = .ok (.sub 3 1 2) ∧ encode (.sub 3 1 2) = 0x2131200000000000 := by decide

theorem test_decode_neg : decode 0x2231000000000000 = .ok (.neg 3 1) ∧ encode (.neg 3 1) = 0x2231000000000000 := by decide

theorem test_decode_mul : decode 0x2331200000000000 = .ok (.mul 3 1 2) ∧ encode (.mul 3 1 2) = 0x2331200000000000 := by decide

theorem test_decode_divrem : decode 0x2431240000000000 = .ok (.divrem 3 4 1 2) ∧ encode (.divrem 3 4 1 2) = 0x2431240000000000 := by decide

theorem test_decode_mod : decode 0x2531200000000000 = .ok (.mod 3 1 2) ∧ encode (.mod 3 1 2) = 0x2531200000000000 := by decide

theorem test_decode_and : decode 0x3031200000000000 = .ok (.and 3 1 2) ∧ encode (.and 3 1 2) = 0x3031200000000000 := by decide

theorem test_decode_or : decode 0x3131200000000000 = .ok (.or 3 1 2) ∧ encode (.or 3 1 2) = 0x3131200000000000 := by decide

theorem test_decode_xor : decode 0x3231200000000000 = .ok (.xor 3 1 2) ∧ encode (.xor 3 1 2) = 0x3231200000000000 := by decide

theorem test_decode_not : decode 0x3331000000000000 = .ok (.not 3 1) ∧ encode (.not 3 1) = 0x3331000000000000 := by decide

theorem test_decode_shl : decode 0x3431000000000002 = .ok (.shl 3 1 2) ∧ encode (.shl 3 1 2) = 0x3431000000000002 := by decide

theorem test_decode_shr : decode 0x3531000000000001 = .ok (.shr 3 1 1) ∧ encode (.shr 3 1 1) = 0x3531000000000001 := by decide

theorem test_decode_tst : decode 0x3801000000000000 = .ok (.tst 1) ∧ encode (.tst 1) = 0x3801000000000000 := by decide

theorem test_decode_tbit : decode 0x3901000000000002 = .ok (.tbit 1 2) ∧ encode (.tbit 1 2) = 0x3901000000000002 := by decide

theorem test_decode_bitlen : decode 0x3A01000000000000 = .ok (.bitlen 1) ∧ encode (.bitlen 1) = 0x3A01000000000000 := by decide

theorem test_decode_ctz : decode 0x3B01000000000000 = .ok (.ctz 1) ∧ encode (.ctz 1) = 0x3B01000000000000 := by decide

theorem test_decode_modinv : decode 0x4031200000000000 = .ok (.modinv 3 1 2) ∧ encode (.modinv 3 1 2) = 0x4031200000000000 := by decide

theorem test_decode_gcd : decode 0x4131200000000000 = .ok (.gcd 3 1 2) ∧ encode (.gcd 3 1 2) = 0x4131200000000000 := by decide

theorem test_decode_xgcd : decode 0x4231245000000000 = .ok (.xgcd 3 4 5 1 2) ∧ encode (.xgcd 3 4 5 1 2) = 0x4231245000000000 := by decide

theorem test_decode_modpow : decode 0x4341230000000000 = .ok (.modpow 4 1 2 3) ∧ encode (.modpow 4 1 2 3) = 0x4341230000000000 := by decide

theorem test_decode_kinit : decode 0x5000000000000100 = .ok (.kinit 256) ∧ encode (.kinit 256) = 0x5000000000000100 := by decide

theorem test_decode_kreset : decode 0x5100000000000000 = .ok (.kreset) ∧ encode (.kreset) = 0x5100000000000000 := by decide

theorem test_decode_kabs : decode 0x5200000000030000 = .ok (.kabs 3 0) ∧ encode (.kabs 3 0) = 0x5200000000030000 := by decide

theorem test_decode_kflip : decode 0x5300000100000000 = .ok (.kflip true) ∧ encode (.kflip true) = 0x5300000100000000 := by decide

theorem test_decode_ksqz : decode 0x5400000000200100 = .ok (.ksqz 0x20 0x100) ∧ encode (.ksqz 0x20 0x100) = 0x5400000000200100 := by decide

theorem test_decode_kperm : decode 0x5500000000000000 = .ok (.kperm) ∧ encode (.kperm) = 0x5500000000000000 := by decide

/-- The mode numbers of 30_encoding.md R91, at the LD example's other operands. -/
theorem test_decode_modes : decode 0x1210000000020040 = .ok (.ld 1 .ube 2 0x40) ∧
    decode 0x1210000100020040 = .ok (.ld 1 .ule 2 0x40) ∧ decode 0x1210000200020040 = .ok (.ld 1 .sbe 2 0x40) := by decide

/-! Illegal words (30_encoding.md R100). -/

theorem test_zero_word_is_illegal : decode 0 = .error .unassignedOp := by decide
theorem test_ones_word_is_illegal : decode 0xFFFFFFFFFFFFFFFF = .error .unassignedOp := by decide
theorem test_nop_with_immediate_is_illegal : decode 0x0100000000000001 = .error .nonzeroField := by decide
theorem test_add_with_rc_is_illegal : decode 0x2031210000000000 = .error .nonzeroField := by decide
theorem test_kflip_with_high_fn_is_illegal : decode 0x5300000200000000 = .error .nonzeroField := by decide
theorem test_divrem_with_equal_destinations_is_illegal : decode 0x2431230000000000 = .error .equalDestinations := by
  decide
theorem test_xgcd_with_equal_destinations_is_illegal : decode 0x4231233000000000 = .error .equalDestinations := by decide
theorem test_xgcd_with_low_fn_is_illegal : decode 0x4231245100000000 = .error .nonzeroField := by decide

/-- Assembler text (30_encoding.md R103). -/
theorem test_asm : asmText (.divrem 3 4 1 2) = "DIVREM R3, R4, R1, R2" ∧
    asmText (.ldi 1 0xFFFFFFF9) = "LDI R1, -7" := by decide

/-! ### Commands: values of the rules' examples and corner cases, and of 95_test_vectors.md -/

/-- 46_system.md R270, corner case: the count wraps. -/
theorem test_nop_wraps : (after (exec .nop { st [] with cmdcnt := 0xFFFFFFFF })).cmdcnt = 0 := by decide
theorem test_ldi_negative : reg (.ldi 1 0xFFFFFFF9) (st []) 1 = some (-7) := by decide
theorem test_ldi_least : reg (.ldi 1 0x80000000) (st []) 1 = some (-2147483648) := by decide
theorem test_mov : reg (.mov 2 1) (st [(1, -7)]) 2 = some (-7) := by decide
theorem test_mov_invalid : code (.mov 2 1) (st [(2, 5)]) = 2 := by decide
theorem test_ld_little_signed : reg (.ld 1 .sle 2 0x40) (mem [0xFF, 0xFE]) 1 = some (-257) := by decide
theorem test_ld_big_unsigned : reg (.ld 1 .ube 2 0x40) (mem [0x12, 0x34]) 1 = some 4660 := by decide
theorem test_st_little : bytes (.st 1 .ule 4 0x80) (st [(1, 4660)]) 0x80 4 = [0x34, 0x12, 0, 0] := by decide
theorem test_st_signed : bytes (.st 1 .sbe 2 0x80) (st [(1, -129)]) 0x80 2 = [0xFF, 0x7F] := by decide
/-- 44_moves_encoding.md R216, corner case. -/
theorem test_st_empty : code (.st 1 .sbe 0 0x80) (st [(1, 0)]) = 9 ∧ code (.st 1 .ube 0 0x80) (st [(1, 0)]) = 0 := by
  decide
theorem test_enclen_signed : sres (.enclen 1 .sbe) (st [(1, 128)]) = 2 := by decide
theorem test_enclen_zero : sres (.enclen 1 .ube) (st [(1, 0)]) = 0 := by decide
theorem test_add : reg (.add 3 1 2) (st [(1, 5), (2, -8)]) 3 = some (-3) := by decide
theorem test_add_overflow : code (.add 3 1 2) (st [(1, 2 ^ 127 - 1), (2, 1)]) = 10 := by decide +kernel
theorem test_sub : reg (.sub 3 1 2) (st [(1, 5), (2, 8)]) 3 = some (-3) := by decide
theorem test_sub_overflow : code (.sub 3 1 2) (st [(1, 0), (2, -2 ^ 127)]) = 10 := by decide +kernel
theorem test_neg : reg (.neg 3 1) (st [(1, 2 ^ 127 - 1)]) 3 = some (-2 ^ 127 + 1) := by decide +kernel
theorem test_neg_overflow : code (.neg 3 1) (st [(1, -2 ^ 127)]) = 10 := by decide +kernel
theorem test_mul : reg (.mul 3 1 2) (st [(1, -6), (2, 7)]) 3 = some (-42) := by decide
theorem test_mul_overflow : code (.mul 3 1 2) (st [(1, 2 ^ 126), (2, 2)]) = 10 := by decide +kernel
theorem test_divrem : reg (.divrem 3 4 1 2) (st [(1, -7), (2, 2)]) 3 = some (-3) ∧
    reg (.divrem 3 4 1 2) (st [(1, -7), (2, 2)]) 4 = some (-1) := by decide
theorem test_divrem_sources_are_destinations : reg (.divrem 1 2 1 2) (st [(1, 100), (2, 7)]) 1 = some 14 ∧
    reg (.divrem 1 2 1 2) (st [(1, 100), (2, 7)]) 2 = some 2 := by decide
theorem test_mod : reg (.mod 3 1 2) (st [(1, -7), (2, -3)]) 3 = some 2 := by decide
theorem test_mod_zero : code (.mod 3 1 2) (st [(1, 0), (2, 0)]) = 5 := by decide
theorem test_and : reg (.and 3 1 2) (st [(1, -4), (2, -6)]) 3 = some (-8) := by decide
theorem test_and_mixed : reg (.and 3 1 2) (st [(1, -4), (2, 6)]) 3 = some 4 := by decide
theorem test_or : reg (.or 3 1 2) (st [(1, -4), (2, 1)]) 3 = some (-3) := by decide
theorem test_xor : reg (.xor 3 1 2) (st [(1, -1), (2, 5)]) 3 = some (-6) := by decide
theorem test_xor_negative : reg (.xor 3 1 2) (st [(1, -4), (2, 6)]) 3 = some (-6) := by decide
theorem test_not : reg (.not 3 1) (st [(1, 5)]) 3 = some (-6) := by decide
theorem test_shl : reg (.shl 3 1 2) (st [(1, -3)]) 3 = some (-12) := by decide
theorem test_shl_boundary : reg (.shl 3 1 127) (st [(1, -1)]) 3 = some (-2 ^ 127) ∧
    code (.shl 3 1 128) (st [(1, -1)]) = 10 ∧ code (.shl 3 1 127) (st [(1, 1)]) = 10 := by decide +kernel
theorem test_shr : reg (.shr 3 1 1) (st [(1, -5)]) 3 = some (-3) := by decide
theorem test_shr_far : reg (.shr 3 1 1000) (st [(1, -5)]) 3 = some (-1) := by decide +kernel
theorem test_tst : (after (exec (.tst 1) (st [(1, -7)]))).flags = 0b0110 := by decide
theorem test_tst_one : (after (exec (.tst 1) (st [(1, 1)]))).flags = 0b1100 := by decide
theorem test_tbit : sres (.tbit 1 2) (st [(1, -4)]) = 1 := by decide
theorem test_tbit_far : sres (.tbit 1 1000) (st [(1, -4)]) = 1 := by decide +kernel
theorem test_bitlen : sres (.bitlen 1) (st [(1, -256)]) = 8 := by decide +kernel
theorem test_bitlen_minus_257 : sres (.bitlen 1) (st [(1, -257)]) = 9 := by decide +kernel
theorem test_ctz : sres (.ctz 1) (st [(1, 12)]) = 2 := by decide +kernel
theorem test_ctz_negative : code (.ctz 1) (st [(1, -8)]) = 6 := by decide +kernel
theorem test_modinv : reg (.modinv 3 1 2) (st [(1, 7), (2, 40)]) 3 = some 23 := by decide +kernel
theorem test_modinv_domain : code (.modinv 3 1 2) (st [(1, 3), (2, -7)]) = 6 := by decide +kernel
theorem test_gcd : reg (.gcd 3 1 2) (st [(1, -12), (2, 18)]) 3 = some 6 := by decide +kernel
theorem test_gcd_overflow : code (.gcd 3 1 2) (st [(1, -2 ^ 127), (2, 0)]) = 10 := by decide +kernel
theorem test_xgcd : (after (exec (.xgcd 3 4 5 1 2) (st [(1, 240), (2, 46)]))).regs.toList.extract 3 6 =
    [some 2, some (-9), some 47] := by decide +kernel
theorem test_xgcd_signs : (after (exec (.xgcd 3 4 5 1 2) (st [(1, 12), (2, -18)]))).regs.toList.extract 3 6 =
    [some 6, some (-1), some (-1)] := by decide +kernel
theorem test_modpow : reg (.modpow 4 1 2 3) (st [(1, 7), (2, 13), (3, 32000096)]) 4 = some 24719815 := by decide +kernel
theorem test_modpow_negative : reg (.modpow 4 1 2 3) (st [(1, 3), (2, -2), (3, 10)]) 4 = some 9 := by decide +kernel
theorem test_kinit : kcfgWord (after (exec (.kinit 1536) (sponge .squeeze 5))) = 1536 := by decide +kernel
theorem test_kinit_bad : code (.kinit 100) (st []) = 6 ∧ code (.kinit 1600) (st []) = 6 := by decide +kernel
theorem test_kreset : kcfgWord (after (exec .kreset (sponge .squeeze 5))) = 1536 := by decide +kernel
/-- 45_keccak.md R242, example. -/
theorem test_kabs : (after (exec (.kabs 3 64) (mem [0x61, 0x62, 0x63]))).lanes[0] = 0x636261 ∧
    (after (exec (.kabs 3 64) (mem [0x61, 0x62, 0x63]))).pos = 3 := by decide +kernel
theorem test_kabs_squeezing : code (.kabs 0 0) (sponge .squeeze 0) = 4 := by decide +kernel
/-- 45_keccak.md R243, example: the padded state. -/
theorem test_padding : (padState (xorByte (Vector.replicate 25 0) 0 0x61) 1 168 true)[0] = 0x1F61 ∧
    (padState (Vector.replicate 25 0) 167 168 false)[20] = 0x8600000000000000 := by decide +kernel
theorem test_ksqz_absorbing : code (.ksqz 1 0) (st []) = 4 := by decide +kernel
/-- 45_keccak.md R234: the zero state after rounds 0 and 1. -/
theorem test_round_one : (keccakRound (keccakRound (Vector.replicate 25 0) 0x1) 0x8082)[23] = 0 ∧
    (keccakRound (keccakRound (Vector.replicate 25 0) 0x1) 0x8082)[13] = 0x202 := by decide +kernel

/-! ### The reference datapath: the worked values of 42_modinv_gcd.md R169, R170 and 43_modpow.md R187 to R193 -/

theorem test_inv2 : inv2 3 16 = 43691 ∧ crt 3 5 7 3 = 23 ∧ inverseDatapath 7 40 = 23 := by decide +kernel
theorem test_word_inverse : montWordInverse 7 = 0x9249249249249249 ∧
    montWordInverse 1000003 = 0x206E7802877E6595 ∧ montWordInverse (2 ^ 89 - 1) = 1 := by decide +kernel
theorem test_redc : redc 1000003 864192 = 699272 := by decide +kernel
theorem test_mont_pow : montPow 123456 5 1000003 = 63218 ∧ montPow 3 10 (2 ^ 89 - 1) = 59049 := by decide +kernel
theorem test_modpow_datapath : truncPow 7 13 5 = 7 ∧ mpowDatapath 7 13 32000096 = 24719815 := by decide +kernel

/-! ### The host's side and the resets -/

/-- 10_state.md R37, R38: the reset value of `KCFG`, the default value of `ID`. -/
theorem test_reset_registers : kcfgWord State.reset = 0x100 ∧ idWord State.reset = 0x0110000010000080 ∧
    statusWord State.reset = 0 := by decide +kernel
/-- 70_reset_and_hazards.md R331: one command from the idle block, read back as `STATUS`. -/
theorem test_host_issue :
    (after ((Sys2Proof.core).run 3 { State.reset with agenda := issueTurns 0x0100000000000000 })).hostData =
      some 0x100000000 := by decide +kernel
theorem test_fetch_word : (after (step (State.reset.withFetchWord 64 0x10100000FFFFFFF9))).regs[1] = some (-7) := by
  decide +kernel
/-- 60_exceptions.md R283: the fault entry, seen in `STATUS`. -/
theorem test_fault_status : statusWord (after (step (State.reset.withFetchWord 64 0))) = 0x102 := by decide +kernel
theorem test_cmd_while_busy : (after (step { turns [.host (.write 0 8 7)] with busy := true, pend := 5 })).pend = 5 ∧
    (after (step { turns [.host (.write 0 8 7)] with busy := true, pend := 5 })).ovr = true := by decide +kernel
/-- 10_state.md R34: `BUSY` is bit 0, `OVR` bit 2, the count starts at bit 32. -/
theorem test_status_while_busy :
    (after (step { turns [.host (.read 8 8)] with busy := true, ovr := true, cmdcnt := 3 })).hostData =
      some 0x300000005 := by decide +kernel
theorem test_soft_reset_abandons :
    (after (step { turns [.host (.write 0x20 8 1)] with busy := true, cmdcnt := 9 })).busy = false ∧
      (after (step { turns [.host (.write 0x20 8 1)] with busy := true, cmdcnt := 9 })).cmdcnt = 0 := by decide +kernel
/-- 20_memory.md R66: little-endian bus lanes. -/
theorem test_host_buffer_read :
    (after (step { mem [1, 2, 3, 4] with agenda := [.host (.read 0x10040 4)] })).hostData = some 0x04030201 := by
  decide +kernel
theorem test_host_buffer_write :
    readBytes (after (step (turns [.host (.write 0x10040 2 0x1234)]))) 0x40 2 = [0x34, 0x12] := by decide +kernel

/-! ### Witnesses: for each statement with hypotheses, values that meet them, clause by clause -/

theorem witness_DecodeOfEncodeIsTheCommand : (Instr.xgcd 15 0 1 15 15).WellFormed = true := by decide
theorem witness_EncodeOfDecodeIsTheWord : decode 0x42FFF01000000000 = .ok (.xgcd 15 0 1 15 15) := by decide
theorem witness_StepRunsTheDecodedCommand :
    (decode (withPending (st []) 0x0100000000000000).pend = .ok .nop ∧ (withPending (st []) 0x0100000000000000).busy = true ∧
      (withPending (st []) 0x0100000000000000).agenda = []) ∧
    ({ withPending (st []) 0x0100000000000000 with agenda := [.engine] }).agenda = .engine :: [] ∧
    ((st []).busy = false ∧ (st []).agenda = []) ∧
    ((turns [.engine]).busy = false ∧ (turns [.engine]).agenda = .engine :: []) := by decide
/-- A word of no row, a word of a row with a bit that is not live, and two words with equal destinations. -/
theorem witness_IllegalWordFaultsWithCode1 :
    ((withPending (st []) 0).busy = true ∧ (withPending (st []) 0).agenda = [] ∧
      ∀ row ∈ opcodeTable, (withPending (st []) 0).pend &&& row.mask ≠ row.pattern) ∧
    ({ withPending (st []) 0 with agenda := [.engine] }).agenda = .engine :: [] ∧
    (∀ row ∈ opcodeTable, (0x0100000000000001 : Word) &&& row.mask ≠ row.pattern) ∧
    ¬DistinctDestinations 0x2431230000000000 ∧ ¬DistinctDestinations 0x4231233000000000 := by
  unfold DistinctDestinations; decide

theorem witness_MovCopies : (st []).regs[(1 : Reg)] = none ∧ (st [(1, -2 ^ 127)]).regs[(1 : Reg)] = some (-2 ^ 127) := by decide +kernel

/-- No range, a range beyond the end, readings out of range and at both ends of the sign. -/
theorem witness_LdDecodesTheBytes : (st []).cfg.bufsz < (255 : BitVec 16).toNat + (2 : BitVec 16).toNat ∧
    ((0 : BitVec 16).toNat + (256 : BitVec 16).toNat ≤ (st []).cfg.bufsz ∧ (0 : BitVec 16).toNat + (0 : BitVec 16).toNat ≤ 256) ∧
    (reading .ube (fun k => readByte (mem (List.replicate 16 0xFF)) (64 + k)) 16 = 2 ^ 128 - 1 ∧
      ¬InRange small (2 ^ 128 - 1)) ∧
    (reading .sbe (fun k => readByte (mem (List.replicate 16 0xFF)) (64 + k)) 16 = -1 ∧ InRange small (-1)) ∧
    (reading .sle (fun k => readByte (mem [0x00, 0x80]) (64 + k)) 2 = -2 ^ 15 ∧ InRange small (-2 ^ 15)) := by decide +kernel

theorem witness_StEncodesTheValue : (st []).regs[(1 : Reg)] = none ∧ (st [(1, -1)]).regs[(1 : Reg)] = some (-1) ∧
    (st []).cfg.bufsz < (256 : BitVec 16).toNat + (1 : BitVec 16).toNat ∧
    (255 : BitVec 16).toNat + (1 : BitVec 16).toNat ≤ (st []).cfg.bufsz ∧
    (Unsigned .ube ∧ (-1 : Int) < 0) ∧
    ((Unsigned .ube → (0 : Int) ≤ 256) ∧ ¬Fits .ube 256 1 ∧ Fits .ube 255 1 ∧ Fits .ule 0 0) ∧
    ((Unsigned .sbe → (0 : Int) ≤ -1) ∧ Fits .sbe (-128) 1 ∧ ¬Fits .sbe (-129) 1 ∧ Fits .sle 127 1 ∧ ¬Fits .sle 128 1 ∧
      ¬Fits .sle 0 0) := by
  unfold Fits; decide +kernel

theorem witness_EnclenGivesLeastLength : (st []).regs[(1 : Reg)] = none ∧ (st [(1, -1)]).regs[(1 : Reg)] = some (-1) ∧
    (Unsigned .ule ∧ (-1 : Int) < 0) ∧ (Unsigned .ube → (0 : Int) ≤ 0) ∧ (Unsigned .sbe → (0 : Int) ≤ -1) ∧
    IsBitlen 255 8 ∧ IsBitlen (-256) 8 ∧ small.Legal ∧ InRange small (-2 ^ 127) := by decide +kernel

theorem witness_AddSubNegAreExact : (st [(1, 5)]).regs[(1 : Reg)] = some 5 ∧ (st [(1, 5)]).regs[(2 : Reg)] = none ∧
    (InRange small (2 ^ 127 - 2 + 1) ∧ ¬InRange small (2 ^ 127 - 1 + 1)) ∧
    (InRange small (-2 ^ 127 + 1 - 1) ∧ ¬InRange small (-2 ^ 127 - 1)) ∧
    (InRange small (-(-2 ^ 127 + 1)) ∧ ¬InRange small (-(-2 ^ 127)) ∧ InRange small (-2 ^ 127)) := by decide +kernel

theorem witness_MulIsExact : (st [(1, 5)]).regs[(1 : Reg)] = some 5 ∧ (st [(1, 5)]).regs[(2 : Reg)] = none ∧
    InRange small (-2 ^ 126 * 2) ∧ ¬InRange small (2 ^ 126 * 2) := by decide +kernel

theorem witness_DivremTruncates : (3 : Reg) ≠ 4 ∧ (st [(1, 5), (2, 0)]).regs[(2 : Reg)] = some 0 ∧ (st [(1, 5)]).regs[(2 : Reg)] = none ∧
    (-1 : Int) ≠ 0 ∧ InRange small (tdiv (-2 ^ 127 + 1) (-1)) ∧ ¬InRange small (tdiv (-2 ^ 127) (-1)) ∧
    InRange small (-2 ^ 127) ∧ InRange small (-1) := by decide +kernel

theorem witness_ModGivesTheRepresentative : (st [(1, 5)]).regs[(2 : Reg)] = none ∧ (st [(1, -2 ^ 127), (2, 0)]).regs[(2 : Reg)] = some 0 ∧
    (st [(1, -1), (2, -2 ^ 127)]).regs[(2 : Reg)] = some (-2 ^ 127) ∧ InRange small (-2 ^ 127) := by decide +kernel

theorem witness_AndOrXorActBitByBit : (st [(1, 5)]).regs[(2 : Reg)] = none ∧ (st [(1, -2 ^ 127), (2, -1)]).regs[(1 : Reg)] = some (-2 ^ 127) ∧
    (st [(1, -2 ^ 127), (2, -1)]).regs[(2 : Reg)] = some (-1) ∧ InRange small (-2 ^ 127) ∧ InRange small (-1) := by decide +kernel

theorem witness_NotComplementsEveryBit : (st []).regs[(1 : Reg)] = none ∧ (st [(1, -2 ^ 127)]).regs[(1 : Reg)] = some (-2 ^ 127) ∧
    InRange small (-2 ^ 127) := by decide +kernel

theorem witness_ShlMultipliesByPowerOfTwo : (st []).regs[(1 : Reg)] = none ∧ (st [(1, -1)]).regs[(1 : Reg)] = some (-1) ∧
    InRange small (-1 * 2 ^ (127 : BitVec 32).toNat) ∧ ¬InRange small (-1 * 2 ^ (128 : BitVec 32).toNat) ∧
    (-1 : Int) ≠ 0 ∧ IsBitlen (-1) 0 := by decide +kernel

theorem witness_ShrTakesTheFloor : (st []).regs[(1 : Reg)] = none ∧ (st [(1, 2 ^ 127 - 1)]).regs[(1 : Reg)] = some (2 ^ 127 - 1) ∧
    InRange small (2 ^ 127 - 1) := by decide +kernel

theorem witness_TstWritesTheFourFlags : (st []).regs[(15 : Reg)] = none ∧ (st [(15, 0)]).regs[(15 : Reg)] = some 0 := by decide +kernel

theorem witness_TbitReadsOneBit : (st []).regs[(0 : Reg)] = none ∧ (st [(0, -1)]).regs[(0 : Reg)] = some (-1) := by decide +kernel

theorem witness_BitlenGivesTheBitLength : (st []).regs[(1 : Reg)] = none ∧ (st [(1, -2 ^ 127)]).regs[(1 : Reg)] = some (-2 ^ 127) ∧
    InRange small (-2 ^ 127) := by decide +kernel

theorem witness_CtzCountsTrailingZeros : (st []).regs[(1 : Reg)] = none ∧ (st [(1, 0)]).regs[(1 : Reg)] = some 0 ∧ (0 : Int) ≤ 0 ∧
    (st [(1, 1)]).regs[(1 : Reg)] = some 1 ∧ (0 : Int) < 1 := by decide +kernel

theorem witness_ModinvGivesTheInverse : (st [(1, 5)]).regs[(2 : Reg)] = none ∧ (st [(1, 5), (2, 0)]).regs[(2 : Reg)] = some 0 ∧
    ((0 : Int) < 2 ∧ Int.gcd 0 2 ≠ 1) ∧ ((0 : Int) < 1 ∧ Int.gcd 0 1 = 1) ∧ (st [(1, 0), (2, 1)]).regs[(2 : Reg)] = some 1 := by decide +kernel

theorem witness_GcdGivesTheDivisor : (st [(1, 5)]).regs[(2 : Reg)] = none ∧
    (st [(1, -2 ^ 127), (2, 0)]).regs[(1 : Reg)] = some (-2 ^ 127) ∧ InRange small (-2 ^ 127) ∧ InRange small 0 ∧
    ¬InRange small (Int.gcd (-2 ^ 127) 0) ∧ InRange small (Int.gcd (-2 ^ 127) 1) := by decide +kernel

theorem witness_XgcdMeetsTheBezoutLaw : ((3 : Reg) ≠ 4 ∧ (3 : Reg) ≠ 5 ∧ (4 : Reg) ≠ 5) ∧ (st [(1, 240)]).regs[(2 : Reg)] = none ∧
    bezout small 240 46 = (-9, 47) ∧ (InRange small 2 ∧ InRange small (-9) ∧ InRange small 47) ∧
    bezout small (-2 ^ 127) 0 = (-1, 0) ∧ ¬InRange small (Int.gcd (-2 ^ 127) 0) := by decide +kernel

theorem witness_XgcdWithDefaultBezoutCompletes : small.bezout = .euclid ∧ small.Legal ∧ ((3 : Reg) ≠ 4 ∧ (3 : Reg) ≠ 5 ∧ (4 : Reg) ≠ 5) ∧
    (st [(1, -2 ^ 127), (2, 3)]).regs[(1 : Reg)] = some (-2 ^ 127) ∧ (st [(1, -2 ^ 127), (2, 3)]).regs[(2 : Reg)] = some 3 ∧
    InRange small (-2 ^ 127) ∧ InRange small 3 ∧ InRange small (Int.gcd (-2 ^ 127) 3) := by decide +kernel

theorem witness_ModpowGivesTheModularPower : (st [(1, 2), (2, 3)]).regs[(3 : Reg)] = none ∧ (st [(1, 2), (2, 3), (3, 0)]).regs[(3 : Reg)] = some 0 ∧
    (1 < (4 : Int).natAbs ∧ (-1 : Int) < 0 ∧ Int.gcd 2 4 ≠ 1) ∧
    ((-1 : Int) ≠ 0 ∧ (-1 : Int).natAbs = 1) ∧ ((4 : Int) ≠ 0 ∧ (0 : Int) ≤ 0) ∧ ((-7 : Int) ≠ 0 ∧ Int.gcd 3 (-7) = 1) ∧
    ((0 : Int) ≤ 5 ∧ (5 : Int) < (-7 : Int).natAbs ∧ (-7 : Int) ∣ 3 * 5 - 1) ∧ InRange small (-2 ^ 127) := by decide +kernel

theorem witness_KinitAndKresetStartASponge : ((0 : BitVec 32).toNat = 0 ∧ 1600 ≤ (1600 : BitVec 32).toNat ∧ (100 : BitVec 32).toNat % 64 ≠ 0) ∧
    (0 < (64 : BitVec 32).toNat ∧ (64 : BitVec 32).toNat < 1600 ∧ (64 : BitVec 32).toNat % 64 = 0) ∧
    ((1536 : BitVec 32).toNat < 1600 ∧ (1536 : BitVec 32).toNat % 64 = 0) := by decide +kernel

theorem witness_KabsAbsorbsByteByByte : (small.bufsz < (256 : BitVec 16).toNat + (1 : BitVec 16).toNat) ∧
    ((0 : BitVec 16).toNat + (256 : BitVec 16).toNat ≤ small.bufsz ∧ (sponge .squeeze 8).mode = .squeeze) ∧
    ((sponge .absorb 7).mode = .absorb ∧ (sponge .absorb 7).SpongeOk) := by
  unfold State.SpongeOk; decide +kernel

theorem witness_KflipPadsAndPermutes : (sponge .squeeze 8).mode = .squeeze ∧ (sponge .absorb 7).mode = .absorb ∧
    (sponge .absorb 7).SpongeOk := by
  unfold State.SpongeOk; decide +kernel

theorem witness_KsqzDeliversTheStream : (small.bufsz < (256 : BitVec 16).toNat + (1 : BitVec 16).toNat) ∧
    ((0 : BitVec 16).toNat + (256 : BitVec 16).toNat ≤ small.bufsz ∧ (sponge .absorb 0).mode = .absorb) ∧
    ((sponge .squeeze 8).mode = .squeeze ∧ (sponge .squeeze 8).SpongeOk) ∧ (0 : BitVec 16).toNat = 0 ∧
    0 < (1 : BitVec 16).toNat := by
  unfold State.SpongeOk; decide +kernel

theorem witness_StateBytesAreLittleEndianInALane : 199 < 200 := by decide

theorem witness_AbsorbingInPiecesIsAbsorbingAtOnce : (sponge .absorb 7).SpongeOk ∧ (sponge .absorb 7).mode = .absorb ∧
    (256 : BitVec 16).toNat = (1 : BitVec 16).toNat + (255 : BitVec 16).toNat ∧
    (1 : BitVec 16).toNat = (0 : BitVec 16).toNat + (1 : BitVec 16).toNat ∧
    (0 : BitVec 16).toNat + (256 : BitVec 16).toNat ≤ (sponge .absorb 7).cfg.bufsz := by
  unfold State.SpongeOk; decide +kernel

theorem witness_InvalidRegisterFaultsFirst : (Instr.st 1 .ube 1 0xFFFF).WellFormed = true ∧
    (∃ r ∈ sources (.st 1 .ube 1 0xFFFF), (st []).regs[r] = none) := by
  exact ⟨by decide, 1, by decide, by decide⟩

theorem witness_OnlyPredicatesWriteFlagsAndScalar : exec (.add 3 1 1) (st [(1, 2)]) = .next (after (exec (.add 3 1 1) (st [(1, 2)]))) ∧
    (∀ ra, Instr.add 3 1 1 ≠ .tst ra) := by
  exact ⟨rfl, by simp⟩

theorem witness_OnlyStAndKsqzWriteTheBuffer : exec (.st 1 .ube 1 0xFF) (writeBytes (st [(1, 7)]) 0xFF [0]) =
      .next (after (exec (.st 1 .ube 1 0xFF) (writeBytes (st [(1, 7)]) 0xFF [0]))) ∧
    readByte (after (exec (.st 1 .ube 1 0xFF) (writeBytes (st [(1, 7)]) 0xFF [0]))) 0xFF ≠
      readByte (writeBytes (st [(1, 7)]) 0xFF [0]) 0xFF := by
  exact ⟨rfl, by decide +kernel⟩

theorem witness_OnlyDestinationsAreWritten : exec (.ldi 15 0) (st [(1, 7)]) = .next (after (exec (.ldi 15 0) (st [(1, 7)]))) ∧
    (1 : Reg) ∉ destinations (.ldi 15 0) ∧ (st [(1, 7)]).regs[(1 : Reg)] ≠ none ∧
    (after (exec (.ldi 15 0) (st [(1, 7)]))).cmdcnt = (st [(1, 7)]).cmdcnt + 1 := by
  exact ⟨rfl, by decide, by decide, by decide⟩

theorem witness_OnlySpongeCommandsWriteTheSponge : exec .nop (st []) = .next (after (exec .nop (st []))) ∧
    (∀ c, Instr.nop ≠ .kinit c) ∧ Instr.nop ≠ .kreset ∧ (∀ b, Instr.nop ≠ .kflip b) ∧ (∀ n a, Instr.nop ≠ .kabs n a) ∧
    (∀ n a, Instr.nop ≠ .ksqz n a) ∧ Instr.nop ≠ .kperm := by
  exact ⟨rfl, by simp⟩

theorem witness_StoreAndLoadRoundTrip : ((st [(1, -2 ^ 127)]).regs[(1 : Reg)] = some (-2 ^ 127) ∧ InRange small (-2 ^ 127) ∧ Fits .sbe (-2 ^ 127) 16 ∧
      (240 : BitVec 16).toNat + (16 : BitVec 16).toNat ≤ small.bufsz) ∧
    (Unsigned .ule ∧ Fits .ule 256 2 ∧ ∀ k < 2, ¬Fits .ule 256 k) ∧
    (InRange small (reading .sle (fun k => readByte (mem [0x00, 0x80]) (64 + k)) 2) ∧
      (254 : BitVec 16).toNat + (2 : BitVec 16).toNat ≤ small.bufsz ∧ 0 < (2 : BitVec 16).toNat) ∧
    (InRange small (reading .ube (fun k => readByte (st []) (256 + k)) 0) ∧
      (256 : BitVec 16).toNat + (0 : BitVec 16).toNat ≤ small.bufsz ∧ Unsigned .ube) ∧
    (InRange small (reading .sbe (fun k => readByte (st []) (256 + k)) 0) ∧ (0 : BitVec 16).toNat = 0 ∧
      ¬Unsigned .sbe) := by
  unfold Fits; decide +kernel

theorem witness_MontgomeryReductionIsCorrect : 3 % 2 = 1 ∧ 1 < 3 ∧ 3 * montR 3 - 1 < 3 * montR 3 := by decide +kernel

theorem witness_InverseDatapathAgrees : (0 < 1 ∧ Int.gcd 0 1 = 1) ∧ (0 < 40 ∧ Int.gcd (-7) 40 = 1) := by decide +kernel

theorem witness_ModpowDatapathAgrees : (st [(1, 3), (2, -1), (3, -7)]).regs[(1 : Reg)] = some 3 ∧ (st [(1, 3), (2, -1), (3, -7)]).regs[(2 : Reg)] = some (-1) ∧
    (st [(1, 3), (2, -1), (3, -7)]).regs[(3 : Reg)] = some (-7) ∧ 1 < (-7 : Int).natAbs ∧ Int.gcd 3 (-7) = 1 ∧
    (1 < (2 : Int).natAbs ∧ (0 : Int) ≤ 0) := by decide +kernel

theorem witness_CommandWriteIsAcceptedOrDropped : (HostTurn (turns [.host (.write 0 8 7)]) (.write 0x000 8 7) [] ∧ (turns [.host (.write 0 8 7)]).busy = false ∧
      (turns [.host (.write 0 8 7)]).fault = false) ∧
    HostTurn { turns [.host (.write 0 8 7)] with busy := true } (.write 0x000 8 7) [] ∧
    HostTurn { turns [.host (.write 0 8 7)] with fault := true } (.write 0x000 8 7) [] := by decide +kernel

theorem witness_BusyWindowProtectsTheBlock : ({ turns [.host (.read 8 8)] with busy := true }).busy = true ∧ small.Legal ∧
    (RegisterAccess 0x008 8 ∧ HostTurn { turns [.host (.read 8 8)] with busy := true } (.read 0x008 8) []) ∧
    (BufferAccess small 0x100FF 1 ∧ HostTurn { turns [.host (.read 0x100FF 1)] with busy := true } (.read 0x100FF 1) []) ∧
    (ReservedAccess small 0x1FFF8 8 ∧ HostTurn { turns [.host (.write 0x1FFF8 8 1)] with busy := true } (.write 0x1FFF8 8 1) []) ∧
    (RegisterAccess 0x020 8 ∧ HostTurn { turns [.host (.write 0x20 8 1)] with busy := true } (.write 0x020 8 1) [] ∧
      (1 : Word).getLsbD 0 = true ∧ (2 : Word).getLsbD 0 = false) := by decide +kernel

theorem witness_RegisterMapReadsAndWrites : (turns []).busy = false ∧ small.Legal ∧ 0xFFF8 % 8 = 0 ∧ 0xFFF8 < 0x10000 ∧
    HostTurn (turns [.host (.read 0xFFF8 8)]) (.read 0xFFF8 8) [] ∧
    (HostTurn (turns [.host (.read 0x1C0 8)]) (.read 0x1C0 8) [] ∧ 0x1C0 = 0x100 + 8 * (24 : Fin 25).val) ∧
    (0x1C8 ∉ [0x008, 0x010, 0x018, 0x028, 0x030, 0x038] ∧ ∀ i : Fin 25, 0x1C8 ≠ 0x100 + 8 * i.val) ∧
    (HostTurn (turns [.host (.write 0x20 8 2)]) (.write 0x020 8 2) [] ∧ (2 : Word).getLsbD 0 = false) := by decide +kernel

theorem witness_BufferAccessesMoveTheirBytes : (turns []).busy = false ∧ small.Legal ∧ BufferAccess small (0x10000 + 0) 1 ∧
    BufferAccess small (0x10000 + 248) 8 ∧
    HostTurn (turns [.host (.read (0x10000 + 248) 8)]) (.read (0x10000 + 248) 8) [] ∧
    HostTurn (turns [.host (.write (0x10000 + 0) 1 5)]) (.write (0x10000 + 0) 1 5) [] := by decide +kernel

theorem witness_OtherAccessesChangeNothing : (small.Legal ∧ ¬RegisterAccess 0x20000 8 ∧ ¬BufferAccess small 0x20000 8 ∧ ¬ReservedAccess small 0x20000 8 ∧
      HostTurn (turns [.host (.read 0x20000 8)]) (.read 0x20000 8) []) ∧
    (¬RegisterAccess 0x100FF 2 ∧ ¬BufferAccess small 0x100FF 2 ∧ ¬ReservedAccess small 0x100FF 2 ∧
      HostTurn (turns [.host (.write 0x100FF 2 1)]) (.write 0x100FF 2 1) []) ∧
    (({ turns [.host (.write 0x100FF 2 1)] with busy := true }).busy = true ∧
      HostTurn { turns [.host (.write 0x100FF 2 1)] with busy := true } (.write 0x100FF 2 1) [] ∧
      HostTurn { turns [.host (.read 0x20000 8)] with busy := true } (.read 0x20000 8) []) ∧
    (ReservedAccess small 0x10100 8 ∧ HostTurn (turns [.host (.read 0x10100 8)]) (.read 0x10100 8) [] ∧
      (turns [.host (.read 0x10100 8)]).busy = false) ∧
    (ReservedAccess small 0x1FFF8 8 ∧ HostTurn (turns [.host (.write 0x1FFF8 8 1)]) (.write 0x1FFF8 8 1) [] ∧
      (turns [.host (.write 0x1FFF8 8 1)]).busy = false) := by decide +kernel

theorem witness_BothResetsLeaveTheResetState : ((1 : Word).getLsbD 0 = true ∧
      HostTurn { turns [.host (.write 0x20 8 1)] with busy := true } (.write 0x020 8 1) []) ∧
    ({ turns [.releaseReset] with resetPin := true }).agenda = .releaseReset :: [] := by decide +kernel

theorem witness_AssertedResetAcceptsNoAccess : (turns [.assertReset]).agenda = .assertReset :: [] ∧
    (({ turns [.host (.write 0 8 1)] with resetPin := true }).resetPin = true ∧
      ({ turns [.host (.write 0 8 1)] with resetPin := true }).agenda = .host (.write 0 8 1) :: []) ∧
    ({ turns [.host (.read 8 8)] with resetPin := true }).agenda = .host (.read 8 8) :: [] := by decide +kernel

/-- A faulted block. -/
def faulted : State := (turns [.host (.write 0 8 1)]).faulted 10

theorem witness_FaultIsStickyUntilReset : faulted.fault = true ∧ faulted.FaultOk ∧
    (∀ rest, faulted.agenda ≠ .assertReset :: rest ∧ faulted.agenda ≠ .releaseReset :: rest) ∧
    (∀ rest size v, faulted.agenda = .host (.write 0x020 size v) :: rest → v.getLsbD 0 = false) := by
  refine ⟨rfl, ⟨by decide, by decide⟩, ?_, ?_⟩ <;> simp [faulted, turns, State.faulted]

/-- A register at the lower end of the range, and a step. -/
theorem witness_StepKeepsRegistersInRange : small.Legal ∧ (st [(1, -2 ^ 127)]).RegsInRange ∧
    step (withPending (st [(1, -2 ^ 127)]) 0x2221000000000000) =
      .next (after (step (withPending (st [(1, -2 ^ 127)]) 0x2221000000000000))) := by
  refine ⟨by decide, ?_, rfl⟩
  unfold State.RegsInRange
  intro r
  revert r
  decide +kernel

theorem witness_StepKeepsTheBufferCanonical : (mem [1, 2]).BufferOk ∧ step (mem [1, 2]) = .next (mem [1, 2]) := by
  exact ⟨⟨by decide, by decide⟩, rfl⟩

theorem witness_StepKeepsThePositionWithinTheRate : (sponge .squeeze 8).SpongeOk ∧
    step (sponge .squeeze 8) = .next (sponge .squeeze 8) := by
  exact ⟨⟨by decide, by decide, by decide⟩, rfl⟩

theorem witness_StepKeepsTheFaultRegisters : faulted.FaultOk ∧ step faulted = .next (after (step faulted)) := by
  exact ⟨⟨by decide, by decide⟩, rfl⟩

/-! ### The whole permutation: last, because the kernel takes seconds for each -/

/-- 45_keccak.md R244, example: SHAKE128 of the empty message, its first bytes. -/
theorem test_shake128_empty : bytes (.ksqz 8 0) (after (exec (.kflip true) (st []))) 0 8 =
    [0x7F, 0x9C, 0x2B, 0xA4, 0xE8, 0x8F, 0x82, 0x7D] := by decide +kernel

/-- 45_keccak.md R234: the permutation of the zero state. -/
theorem test_kperm : (after (exec .kperm (st []))).lanes.toList.take 3 =
    [0xF1258F7940E1DDE7, 0x84D5CCF933C0478A, 0xD598261EA65AA9EE] := by decide +kernel

end Sys2Proof.Tests
end

section
/-! What a completed command has done (60_exceptions.md R281): one inversion of `exec`, from which the frames and the
invariants of the state are derived. -/

namespace Sys2Proof.Proofs
open Sys2Proof Sys2Proof.Machine

/-- The effects of a command that completes in the state `s`, with the tests it has passed: one constructor per
command. The last argument is the state with the effects, before the command is counted. -/
inductive Effect (s : State) : Instr → State → Prop
  | nop : Effect s .nop s
  | ldi {rd imm} : Effect s (.ldi rd imm) (writeReg s rd (signedImm imm))
  | mov {rd ra a} (ha : s.regs[ra] = some a) : Effect s (.mov rd ra) (writeReg s rd a)
  | ld {rd mode len addr} (hb : InBuffer s len addr)
      (hr : InRange s.cfg (decodeBytes mode (readBytes s addr.toNat len.toNat))) :
      Effect s (.ld rd mode len addr) (writeReg s rd (decodeBytes mode (readBytes s addr.toNat len.toNat)))
  | st {ra mode len addr v} (hv : s.regs[ra] = some v) (hb : InBuffer s len addr)
      (hs : isSigned mode = true ∨ 0 ≤ v) (hl : minlen mode v ≤ len.toNat) :
      Effect s (.st ra mode len addr) (writeBytes s addr.toNat (encodeBytes mode v len.toNat))
  | enclen {ra mode v} (hv : s.regs[ra] = some v) (hs : isSigned mode = true ∨ 0 ≤ v) :
      Effect s (.enclen ra mode) (writeSres s (minlen mode v))
  | add {rd ra rb a b} (ha : s.regs[ra] = some a) (hb : s.regs[rb] = some b) (hr : InRange s.cfg (a + b)) :
      Effect s (.add rd ra rb) (writeReg s rd (a + b))
  | sub {rd ra rb a b} (ha : s.regs[ra] = some a) (hb : s.regs[rb] = some b) (hr : InRange s.cfg (a - b)) :
      Effect s (.sub rd ra rb) (writeReg s rd (a - b))
  | neg {rd ra a} (ha : s.regs[ra] = some a) (hr : InRange s.cfg (-a)) : Effect s (.neg rd ra) (writeReg s rd (-a))
  | mul {rd ra rb a b} (ha : s.regs[ra] = some a) (hb : s.regs[rb] = some b) (hr : InRange s.cfg (a * b)) :
      Effect s (.mul rd ra rb) (writeReg s rd (a * b))
  | divrem {rd rc ra rb a b} (hd : rd ≠ rc) (ha : s.regs[ra] = some a) (hb : s.regs[rb] = some b) (h0 : b ≠ 0)
      (hr : InRange s.cfg (tdiv a b)) :
      Effect s (.divrem rd rc ra rb) (writeReg (writeReg s rd (tdiv a b)) rc (trem a b))
  | mod {rd ra rb a m} (ha : s.regs[ra] = some a) (hm : s.regs[rb] = some m) (h0 : m ≠ 0) :
      Effect s (.mod rd ra rb) (writeReg s rd (emod a m))
  | and {rd ra rb a b} (ha : s.regs[ra] = some a) (hb : s.regs[rb] = some b) :
      Effect s (.and rd ra rb) (writeReg s rd (bitwiseAnd a b))
  | or {rd ra rb a b} (ha : s.regs[ra] = some a) (hb : s.regs[rb] = some b) :
      Effect s (.or rd ra rb) (writeReg s rd (bitwiseOr a b))
  | xor {rd ra rb a b} (ha : s.regs[ra] = some a) (hb : s.regs[rb] = some b) :
      Effect s (.xor rd ra rb) (writeReg s rd (bitwiseXor a b))
  | not {rd ra a} (ha : s.regs[ra] = some a) : Effect s (.not rd ra) (writeReg s rd (bitwiseNot a))
  | shl {rd ra n a} (ha : s.regs[ra] = some a) (hf : ShiftFits s.cfg a (unsignedImm n)) :
      Effect s (.shl rd ra n) (writeReg s rd (shiftLeft a (unsignedImm n)))
  | shr {rd ra n a} (ha : s.regs[ra] = some a) :
      Effect s (.shr rd ra n) (writeReg s rd (shiftRight a (unsignedImm n)))
  | tst {ra v} (hv : s.regs[ra] = some v) : Effect s (.tst ra) (writeFlags s (flagsOf v))
  | tbit {ra i v} (hv : s.regs[ra] = some v) : Effect s (.tbit ra i) (writeSres s (bit v (unsignedImm i)).toNat)
  | bitlen {ra v} (hv : s.regs[ra] = some v) : Effect s (.bitlen ra) (writeSres s (bitlen v))
  | ctz {ra v} (hv : s.regs[ra] = some v) (h0 : 0 < v) : Effect s (.ctz ra) (writeSres s (ctz v))
  | modinv {rd ra rb a m} (ha : s.regs[ra] = some a) (hm : s.regs[rb] = some m) (h0 : 0 < m)
      (hg : gcdInt a m = 1) : Effect s (.modinv rd ra rb) (writeReg s rd (inverseMod a m))
  | gcd {rd ra rb a b} (ha : s.regs[ra] = some a) (hb : s.regs[rb] = some b) (hr : InRange s.cfg (gcdInt a b)) :
      Effect s (.gcd rd ra rb) (writeReg s rd (gcdInt a b))
  | xgcd {rd rc re ra rb a b} (hd : rd ≠ rc ∧ rd ≠ re ∧ rc ≠ re) (ha : s.regs[ra] = some a)
      (hb : s.regs[rb] = some b) (hg : InRange s.cfg (gcdInt a b)) (hu : InRange s.cfg (bezout s.cfg a b).1)
      (hv : InRange s.cfg (bezout s.cfg a b).2) :
      Effect s (.xgcd rd rc re ra rb)
        (writeReg (writeReg (writeReg s rd (gcdInt a b)) rc (bezout s.cfg a b).1) re (bezout s.cfg a b).2)
  | modpow {rd ra rb rc a e m} (ha : s.regs[ra] = some a) (he : s.regs[rb] = some e) (hm : s.regs[rc] = some m)
      (h0 : m ≠ 0) (hi : m.natAbs = 1 ∨ 0 ≤ e ∨ gcdInt a m = 1) :
      Effect s (.modpow rd ra rb rc) (writeReg s rd (mpow a e m))
  | kinit {c} (hc : LegalCapacity (unsignedImm c)) :
      Effect s (.kinit c)
        { writeSponge s (Vector.replicate 25 0) .absorb 0 with cap := BitVec.ofNat 11 (unsignedImm c) }
  | kreset : Effect s .kreset (writeSponge s (Vector.replicate 25 0) .absorb 0)
  | kabs {len addr} (hb : InBuffer s len addr) (hm : s.mode = .absorb) :
      Effect s (.kabs len addr)
        (writeSponge s (absorb (rate s) (s.lanes, s.pos.toNat) (readBytes s addr.toNat len.toNat)).1 .absorb
          (absorb (rate s) (s.lanes, s.pos.toNat) (readBytes s addr.toNat len.toNat)).2)
  | kflip {shake} (hm : s.mode = .absorb) :
      Effect s (.kflip shake)
        (writeSponge s (keccakF (padState s.lanes s.pos.toNat (rate s) shake)) .squeeze 0)
  | ksqz {len addr} (hb : InBuffer s len addr) (hm : s.mode = .squeeze) :
      Effect s (.ksqz len addr)
        (writeBytes
          (writeSponge s (squeeze (rate s) len.toNat (s.lanes, s.pos.toNat)).2.1 .squeeze
            (squeeze (rate s) len.toNat (s.lanes, s.pos.toNat)).2.2)
          addr.toNat (squeeze (rate s) len.toNat (s.lanes, s.pos.toNat)).1)
  | kperm : Effect s .kperm { s with lanes := keccakF s.lanes }

/-- Everything one command can do: complete with its effects, or enter the fault from the state it ran in. -/
theorem exec_cases {i : Instr} {s t : State} (h : exec i s = .next t) :
    (∃ u, Effect s i u ∧ t = complete u) ∨ ∃ c, t = enterFault c s := by
  cases i
  case nop => exact .inl ⟨_, .nop, (Host.Outcome.next.inj h).symm⟩
  case ldi => exact .inl ⟨_, .ldi, (Host.Outcome.next.inj h).symm⟩
  case kreset => exact .inl ⟨_, .kreset, (Host.Outcome.next.inj h).symm⟩
  case kperm => exact .inl ⟨_, .kperm, (Host.Outcome.next.inj h).symm⟩
  all_goals
    obtain ⟨u, hu, rfl⟩ | ⟨c, -, rfl⟩ := finish_cases h
    case inr => exact .inr ⟨c, rfl⟩
    refine .inl ⟨u, ?_, rfl⟩
    simp only [bind_ok_iff, source_ok_iff, require_ok_iff, pure, Except.pure, Except.ok.injEq] at hu
  case mov => obtain ⟨a, ha, rfl⟩ := hu; exact .mov ha
  case ld => obtain ⟨-, hb, -, hr, rfl⟩ := hu; exact .ld hb hr
  case st => obtain ⟨v, hv, -, hb, -, hs, -, hl, rfl⟩ := hu; exact .st hv hb hs hl
  case enclen => obtain ⟨v, hv, -, hs, rfl⟩ := hu; exact .enclen hv hs
  case add => obtain ⟨a, ha, b, hb, -, hr, rfl⟩ := hu; exact .add ha hb hr
  case sub => obtain ⟨a, ha, b, hb, -, hr, rfl⟩ := hu; exact .sub ha hb hr
  case neg => obtain ⟨a, ha, -, hr, rfl⟩ := hu; exact .neg ha hr
  case mul => obtain ⟨a, ha, b, hb, -, hr, rfl⟩ := hu; exact .mul ha hb hr
  case divrem => obtain ⟨-, hd, a, ha, b, hb, -, h0, -, hr, rfl⟩ := hu; exact .divrem hd ha hb h0 hr
  case mod => obtain ⟨a, ha, m, hm, -, h0, rfl⟩ := hu; exact .mod ha hm h0
  case and => obtain ⟨a, ha, b, hb, rfl⟩ := hu; exact .and ha hb
  case or => obtain ⟨a, ha, b, hb, rfl⟩ := hu; exact .or ha hb
  case xor => obtain ⟨a, ha, b, hb, rfl⟩ := hu; exact .xor ha hb
  case not => obtain ⟨a, ha, rfl⟩ := hu; exact .not ha
  case shl => obtain ⟨a, ha, -, hf, rfl⟩ := hu; exact .shl ha hf
  case shr => obtain ⟨a, ha, rfl⟩ := hu; exact .shr ha
  case tst => obtain ⟨v, hv, rfl⟩ := hu; exact .tst hv
  case tbit => obtain ⟨v, hv, rfl⟩ := hu; exact .tbit hv
  case bitlen => obtain ⟨v, hv, rfl⟩ := hu; exact .bitlen hv
  case ctz => obtain ⟨v, hv, -, h0, rfl⟩ := hu; exact .ctz hv h0
  case modinv => obtain ⟨a, ha, m, hm, -, h0, -, hg, rfl⟩ := hu; exact .modinv ha hm h0 hg
  case gcd => obtain ⟨a, ha, b, hb, -, hr, rfl⟩ := hu; exact .gcd ha hb hr
  case xgcd => obtain ⟨-, hd, a, ha, b, hb, -, ⟨hg, hu, hv⟩, rfl⟩ := hu; exact .xgcd hd ha hb hg hu hv
  case modpow => obtain ⟨a, ha, e, he, m, hm, -, h0, -, hi, rfl⟩ := hu; exact .modpow ha he hm h0 hi
  case kinit => obtain ⟨-, hc, rfl⟩ := hu; exact .kinit hc
  case kabs => obtain ⟨-, hb, -, hm, rfl⟩ := hu; exact .kabs hb hm
  case kflip => obtain ⟨-, hm, rfl⟩ := hu; exact .kflip hm
  case ksqz => obtain ⟨-, hb, -, hm, rfl⟩ := hu; exact .ksqz hb hm

end Sys2Proof.Proofs
end

section
/-! Which parts of the state each command writes (10_state.md R23, R24, R30, R31, R40, R41, R43): frames of `Effect`,
and through `exec_cases` of `exec`. -/

namespace Sys2Proof.Proofs
open Sys2Proof Sys2Proof.Machine

theorem Effect.flags_eq {s u : State} {i : Instr} (h : Effect s i u) (hi : ∀ ra, i ≠ .tst ra) : u.flags = s.flags := by
  cases h
  case tst ra _ _ => exact absurd rfl (hi ra)
  all_goals rfl

theorem Effect.sres_eq {s u : State} {i : Instr} (h : Effect s i u) (htbit : ∀ ra n, i ≠ .tbit ra n)
    (hbitlen : ∀ ra, i ≠ .bitlen ra) (hctz : ∀ ra, i ≠ .ctz ra) (henclen : ∀ ra m, i ≠ .enclen ra m) :
    u.sres = s.sres := by
  cases h
  case tbit => exact absurd rfl (htbit _ _)
  case bitlen => exact absurd rfl (hbitlen _)
  case ctz => exact absurd rfl (hctz _)
  case enclen => exact absurd rfl (henclen _ _)
  all_goals rfl

theorem Effect.regs_of_not_mem {s u : State} {i : Instr} (h : Effect s i u) {r : Reg} (hr : r ∉ destinations i) :
    u.regs[r] = s.regs[r] := by
  cases h
  all_goals
    simp only [destinations, List.mem_cons, List.not_mem_nil, or_false, not_or] at hr
    simp only [writeReg_get, hr, if_false, writeFlags_regs, writeSres_regs, writeBytes_regs, writeSponge_regs]

theorem Effect.regs_of_mem {s u : State} {i : Instr} (h : Effect s i u) {r : Reg} (hr : r ∈ destinations i) :
    u.regs[r] ≠ none := by
  cases h
  all_goals
    simp only [destinations, List.mem_cons, List.not_mem_nil, or_false] at hr
  all_goals
    simp only [writeReg_get]
    grind

theorem Effect.cap_eq {s u : State} {i : Instr} (h : Effect s i u) (hi : ∀ c, i ≠ .kinit c) : u.cap = s.cap := by
  cases h
  case kinit => exact absurd rfl (hi _)
  all_goals rfl

/-- `KABS` and `KSQZ` write back the mode they require. -/
theorem Effect.mode_eq {s u : State} {i : Instr} (h : Effect s i u) (hkinit : ∀ c, i ≠ .kinit c) (hkreset : i ≠ .kreset)
    (hkflip : ∀ b, i ≠ .kflip b) : u.mode = s.mode := by
  cases h
  case kinit => exact absurd rfl (hkinit _)
  case kreset => exact absurd rfl hkreset
  case kflip => exact absurd rfl (hkflip _)
  case kabs hm => exact hm.symm
  case ksqz hm => exact hm.symm
  all_goals rfl

theorem Effect.pos_eq {s u : State} {i : Instr} (h : Effect s i u) (hkinit : ∀ c, i ≠ .kinit c) (hkreset : i ≠ .kreset)
    (hkflip : ∀ b, i ≠ .kflip b) (hkabs : ∀ n a, i ≠ .kabs n a) (hksqz : ∀ n a, i ≠ .ksqz n a) : u.pos = s.pos := by
  cases h
  case kinit => exact absurd rfl (hkinit _)
  case kreset => exact absurd rfl hkreset
  case kflip => exact absurd rfl (hkflip _)
  case kabs => exact absurd rfl (hkabs _ _)
  case ksqz => exact absurd rfl (hksqz _ _)
  all_goals rfl

theorem Effect.lanes_eq {s u : State} {i : Instr} (h : Effect s i u) (hkinit : ∀ c, i ≠ .kinit c)
    (hkreset : i ≠ .kreset) (hkflip : ∀ b, i ≠ .kflip b) (hkabs : ∀ n a, i ≠ .kabs n a) (hksqz : ∀ n a, i ≠ .ksqz n a)
    (hkperm : i ≠ .kperm) : u.lanes = s.lanes := by
  cases h
  case kinit => exact absurd rfl (hkinit _)
  case kreset => exact absurd rfl hkreset
  case kflip => exact absurd rfl (hkflip _)
  case kabs => exact absurd rfl (hkabs _ _)
  case ksqz => exact absurd rfl (hksqz _ _)
  case kperm => exact absurd rfl hkperm
  all_goals rfl

/-- Settles O40: only the predicates' own effects touch the two registers, and a fault touches neither. -/
theorem onlyPredicatesWriteFlagsAndScalar : Obligations.OnlyPredicatesWriteFlagsAndScalar := by
  intro i s t h
  obtain ⟨u, hu, rfl⟩ | ⟨c, rfl⟩ := exec_cases h
  · exact ⟨hu.flags_eq, hu.sres_eq⟩
  · exact ⟨fun _ => rfl, fun _ _ _ _ => rfl⟩

/-- Settles O42: a counted command writes exactly its destinations, and a fault, which is not counted, no register. -/
theorem onlyDestinationsAreWritten : Obligations.OnlyDestinationsAreWritten := by
  intro i s t h
  obtain ⟨u, hu, rfl⟩ | ⟨c, rfl⟩ := exec_cases h
  · refine ⟨fun r hr => hu.regs_of_not_mem hr, fun r hr => ?_, fun _ r hr => hu.regs_of_mem hr⟩
    by_cases hd : r ∈ destinations i
    · exact hu.regs_of_mem hd
    · exact fun hn => hr ((hu.regs_of_not_mem hd).symm.trans hn)
  · refine ⟨fun _ _ => rfl, fun _ hr => hr, fun hcount => ?_⟩
    rw [enterFault_cmdcnt] at hcount
    bv_omega

/-- Settles O43, part by part of the sponge. -/
theorem onlySpongeCommandsWriteTheSponge : Obligations.OnlySpongeCommandsWriteTheSponge := by
  intro i s t h
  obtain ⟨u, hu, rfl⟩ | ⟨c, rfl⟩ := exec_cases h
  · exact fun hkinit => ⟨hu.cap_eq hkinit, fun hkreset hkflip => ⟨hu.mode_eq hkinit hkreset hkflip,
      fun hkabs hksqz => ⟨hu.pos_eq hkinit hkreset hkflip hkabs hksqz,
        hu.lanes_eq hkinit hkreset hkflip hkabs hksqz⟩⟩⟩
  · exact fun _ => ⟨rfl, fun _ _ => ⟨rfl, fun _ _ => ⟨rfl, fun _ => rfl⟩⟩⟩

end Sys2Proof.Proofs
end

section
/-! The values that the commands write stay in the range of a register (10_state.md R22). -/

namespace Sys2Proof.Proofs
open Sys2Proof Sys2Proof.Machine

/-- A result smaller in magnitude than a value in range is in range, on both sides. -/
theorem inRange_of_natAbs_lt {c : Config} {m v : Int} (hm : InRange c m) (h : v.natAbs < m.natAbs) : InRange c v := by
  unfold InRange at *
  omega

theorem inRange_ofNat_iff {c : Config} {n : Nat} : InRange c (.ofNat n) ↔ n < 2 ^ (c.width - 1) := by
  unfold InRange
  rw [Int.ofNat_eq_natCast]
  omega

theorem inRange_negSucc_iff {c : Config} {n : Nat} : InRange c (.negSucc n) ↔ n < 2 ^ (c.width - 1) := by
  unfold InRange
  omega

theorem inRange_signedImm {c : Config} (hc : c.Legal) (imm : BitVec 32) : InRange c (signedImm imm) := by
  have hw : 31 ≤ c.width - 1 := by simp only [Config.width, limbBits]; omega
  have hpow : 2 ^ 31 ≤ 2 ^ (c.width - 1) := Nat.pow_le_pow_right (by decide) hw
  have hlo := BitVec.le_toInt imm
  have hhi := BitVec.toInt_lt (x := imm)
  unfold InRange signedImm
  omega

/-! ### Quotients and remainders -/

/-- The model's quotient is the library's truncated division. -/
theorem tdiv_eq_tdiv (a b : Int) : tdiv a b = a.tdiv b := by
  rw [← Int.sign_mul_natAbs (a.tdiv b), Int.sign_tdiv, Int.natAbs_tdiv]
  split_ifs with hlt
  · simp [tdiv, Nat.div_eq_of_lt hlt]
  · rfl

theorem trem_eq_tmod (a b : Int) : trem a b = a.tmod b := by
  rw [trem, tdiv_eq_tdiv, Int.tmod_def]

theorem natAbs_trem_lt (a : Int) {b : Int} (hb : b ≠ 0) : (trem a b).natAbs < b.natAbs := by
  rw [trem_eq_tmod, Int.natAbs_tmod]
  exact Nat.mod_lt _ (Int.natAbs_pos.mpr hb)

theorem emod_eq_emod (a m : Int) : emod a m = a % (m.natAbs : Int) := (Int.emod_def _ _).symm

theorem natAbs_emod_lt (a : Int) {m : Int} (hm : m ≠ 0) : (emod a m).natAbs < m.natAbs := by
  have hpos : (0 : Int) < m.natAbs := by omega
  have hlo := Int.emod_nonneg a hpos.ne'
  have hhi := Int.emod_lt_of_pos a hpos
  rw [emod_eq_emod]
  omega

/-! ### Modular powers -/

theorem scanExponent_lt {mul : Nat → Nat → Nat} {M : Nat} (hmul : ∀ x y, mul x y < M) (base e k : Nat) :
    ∀ {acc : Nat}, acc < M → scanExponent mul base e k acc < M := by
  induction k with
  | zero => exact fun hacc => hacc
  | succ k ih =>
    intro acc _
    refine ih ?_
    split <;> exact hmul _ _

theorem powerMod_lt (base e : Nat) {M : Nat} (hM : 0 < M) : powerMod base e M < M :=
  scanExponent_lt (fun _ _ => Nat.mod_lt _ hM) _ _ _ (Nat.mod_lt _ hM)

theorem natAbs_mpow_lt (a e : Int) {m : Int} (hm : m ≠ 0) : (mpow a e m).natAbs < m.natAbs := by
  have hM : 0 < m.natAbs := Int.natAbs_pos.mpr hm
  simp only [mpow]
  split_ifs
  · exact hM
  · exact powerMod_lt _ _ hM
  · exact powerMod_lt _ _ hM

/-! ### Bitwise operations: the magnitude bits of the operands bound those of the result -/

theorem andNotNat_lt {a k : Nat} (b : Nat) (ha : a < 2 ^ k) : andNotNat a b < 2 ^ k :=
  Nat.xor_lt_two_pow ha (Nat.and_le_left.trans_lt ha)

theorem inRange_bitwiseAnd {c : Config} {a b : Int} (ha : InRange c a) (hb : InRange c b) :
    InRange c (bitwiseAnd a b) := by
  cases a <;> cases b <;> simp only [bitwiseAnd, inRange_ofNat_iff, inRange_negSucc_iff] at *
  · exact Nat.and_lt_two_pow _ hb
  · exact andNotNat_lt _ ha
  · exact andNotNat_lt _ hb
  · exact Nat.or_lt_two_pow ha hb

theorem inRange_bitwiseOr {c : Config} {a b : Int} (ha : InRange c a) (hb : InRange c b) :
    InRange c (bitwiseOr a b) := by
  cases a <;> cases b <;> simp only [bitwiseOr, inRange_ofNat_iff, inRange_negSucc_iff] at *
  · exact Nat.or_lt_two_pow ha hb
  · exact andNotNat_lt _ hb
  · exact andNotNat_lt _ ha
  · exact Nat.and_lt_two_pow _ hb

theorem inRange_bitwiseXor {c : Config} {a b : Int} (ha : InRange c a) (hb : InRange c b) :
    InRange c (bitwiseXor a b) := by
  cases a <;> cases b <;> simp only [bitwiseXor, inRange_ofNat_iff, inRange_negSucc_iff] at * <;>
    exact Nat.xor_lt_two_pow ha hb

theorem inRange_bitwiseNot {c : Config} {a : Int} (ha : InRange c a) : InRange c (bitwiseNot a) := by
  unfold InRange bitwiseNot at *
  omega

/-! ### Shifts -/

theorem lt_two_pow_bitlenNat (n : Nat) : n < 2 ^ bitlenNat n := by
  unfold bitlenNat
  split
  · omega
  · exact Nat.lt_log2_self

theorem bitlen_bounds (v : Int) : -(2 ^ bitlen v : Int) ≤ v ∧ v < 2 ^ bitlen v := by
  have hpos : (0 : Int) < 2 ^ bitlen v := by positivity
  unfold bitlen at *
  split_ifs at * with hv
  · have h := lt_two_pow_bitlenNat v.toNat
    zify at h
    omega
  · have h := lt_two_pow_bitlenNat (-v - 1).toNat
    zify at h
    omega

/-- The rule's form of the range test (41_bitwise_predicates.md R146) keeps the shifted value in range. -/
theorem inRange_shiftLeft {c : Config} {a : Int} {n : Nat} (hf : ShiftFits c a n) : InRange c (shiftLeft a n) := by
  have hM : (1 : Int) ≤ 2 ^ (c.width - 1) := one_le_pow₀ (by norm_num)
  unfold InRange shiftLeft
  push_cast
  obtain rfl | hfit := hf
  · simp only [if_true]; omega
  · obtain ⟨hlo, hhi⟩ := bitlen_bounds a
    have hpos : (0 : Int) < 2 ^ n := by positivity
    have hpow : (2 : Int) ^ bitlen a * 2 ^ n ≤ 2 ^ (c.width - 1) := by
      rw [← pow_add]; exact pow_le_pow_right₀ (by norm_num) hfit
    have hlow : -(2 ^ bitlen a * 2 ^ n) ≤ a * 2 ^ n := by
      rw [← neg_mul]; exact mul_le_mul_of_nonneg_right hlo hpos.le
    have hhigh : a * 2 ^ n < 2 ^ bitlen a * 2 ^ n := mul_lt_mul_of_pos_right hhi hpos
    split_ifs
    · omega
    · constructor <;> linarith

theorem inRange_shiftRight {c : Config} {a : Int} (ha : InRange c a) (n : Nat) : InRange c (shiftRight a n) := by
  cases a with
  | ofNat k => exact inRange_ofNat_iff.mpr ((Nat.shiftRight_le k n).trans_lt (inRange_ofNat_iff.mp ha))
  | negSucc k => exact inRange_negSucc_iff.mpr ((Nat.shiftRight_le k n).trans_lt (inRange_negSucc_iff.mp ha))

/-! ### The register file -/

theorem regsInRange_writeReg {s : State} {r : Reg} {v : Int} (hs : s.RegsInRange) (hv : InRange s.cfg v) :
    (writeReg s r v).RegsInRange := by
  intro q w hq
  rw [writeReg_get] at hq
  split_ifs at hq
  · obtain rfl := Option.some.inj hq
    exact hv
  · exact hs q w hq

/-- A command that completes leaves every register in range: its results are tested, or bounded by its operands. -/
theorem Effect.regsInRange {s u : State} {i : Instr} (h : Effect s i u) (hc : s.cfg.Legal) (hs : s.RegsInRange) :
    u.RegsInRange := by
  cases h
  case ldi => exact regsInRange_writeReg hs (inRange_signedImm hc _)
  case mov ha => exact regsInRange_writeReg hs (hs _ _ ha)
  case ld hr => exact regsInRange_writeReg hs hr
  case add hr => exact regsInRange_writeReg hs hr
  case sub hr => exact regsInRange_writeReg hs hr
  case neg hr => exact regsInRange_writeReg hs hr
  case mul hr => exact regsInRange_writeReg hs hr
  case divrem ha hb h0 hr =>
    exact regsInRange_writeReg (regsInRange_writeReg hs hr) (inRange_of_natAbs_lt (hs _ _ hb) (natAbs_trem_lt _ h0))
  case mod ha hm h0 => exact regsInRange_writeReg hs (inRange_of_natAbs_lt (hs _ _ hm) (natAbs_emod_lt _ h0))
  case and ha hb => exact regsInRange_writeReg hs (inRange_bitwiseAnd (hs _ _ ha) (hs _ _ hb))
  case or ha hb => exact regsInRange_writeReg hs (inRange_bitwiseOr (hs _ _ ha) (hs _ _ hb))
  case xor ha hb => exact regsInRange_writeReg hs (inRange_bitwiseXor (hs _ _ ha) (hs _ _ hb))
  case not ha => exact regsInRange_writeReg hs (inRange_bitwiseNot (hs _ _ ha))
  case shl hf => exact regsInRange_writeReg hs (inRange_shiftLeft hf)
  case shr ha => exact regsInRange_writeReg hs (inRange_shiftRight (hs _ _ ha) _)
  case modinv ha hm h0 hg =>
    exact regsInRange_writeReg hs (inRange_of_natAbs_lt (hs _ _ hm) (natAbs_emod_lt _ h0.ne'))
  case gcd hr => exact regsInRange_writeReg hs hr
  case xgcd hg hu hv => exact regsInRange_writeReg (regsInRange_writeReg (regsInRange_writeReg hs hg) hu) hv
  case modpow ha he hm h0 hi =>
    exact regsInRange_writeReg hs (inRange_of_natAbs_lt (hs _ _ hm) (natAbs_mpow_lt _ _ h0))
  all_goals exact hs

end Sys2Proof.Proofs
end

section
/-! The invariants of the state: one rule for what every step keeps, and its three uses (10_state.md R22, R34, R36, R41,
R44). -/

namespace Sys2Proof.Proofs
open Sys2Proof Sys2Proof.Machine

/-- What a reset, a host access, a fault entry and a completed command keep is kept by every step. -/
theorem step_keeps {P : State → Prop} (agenda : ∀ s rest, P s → P { s with agenda := rest })
    (effect : ∀ s i u, s.busy = true → Effect s i u → P s → P (complete u))
    (fault : ∀ s c, s.busy = true → P s → P (enterFault c s))
    (access : ∀ s a, P s → P (hostAccess a s))
    (reset : ∀ s pin, P s → P { resetBlock s with resetPin := pin })
    {s t : State} (hs : P s) (h : step s = .next t) : P t := by
  have engine : ∀ s, P s → engineTurn s = .next t → P t := by
    intro s hs h
    cases hb : s.busy with
    | false =>
      rw [engineTurn_of_idle hb] at h
      exact Host.Outcome.next.inj h ▸ hs
    | true =>
      rw [engineTurn_of_busy hb] at h
      obtain ⟨i, -, he⟩ | ⟨-, he⟩ := engineStep_cases s <;> rw [he] at h
      · obtain ⟨u, hu, rfl⟩ | ⟨c, rfl⟩ := exec_cases h
        · exact effect s i u hb hu hs
        · exact fault s c hb hs
      · exact Host.Outcome.next.inj h ▸ fault s _ hb hs
  obtain ⟨-, he⟩ | ⟨rest, -, he⟩ | ⟨a, rest, -, he⟩ | ⟨rest, -, he⟩ | ⟨rest, -, he⟩ := step_cases s <;> rw [he] at h
  · exact engine s hs h
  · exact engine _ (agenda s rest hs) h
  · exact Host.Outcome.next.inj h ▸ access _ a (agenda s rest hs)
  · exact Host.Outcome.next.inj h ▸ reset _ true (agenda s rest hs)
  · exact Host.Outcome.next.inj h ▸ reset _ false (agenda s rest hs)

/-! ### Registers in range -/

theorem Effect.cfg_eq {s u : State} {i : Instr} (h : Effect s i u) : u.cfg = s.cfg := by cases h <;> rfl

theorem hostAccess_cfg (a : HostAccess) (s : State) : (hostAccess a s).cfg = s.cfg := by
  obtain h | ⟨v, h⟩ | ⟨n, h⟩ | ⟨-, h⟩ | ⟨-, h⟩ | ⟨v, -, -, h⟩ | ⟨b, n, v, -, -, h⟩ := hostAccess_cases a s <;>
    rw [h] <;> rfl

/-- A reset leaves no register with a value, so none out of range. -/
theorem regsInRange_resetBlock (s : State) : (resetBlock s).RegsInRange := by
  intro r v hv
  simp at hv

theorem regsInRange_hostAccess (a : HostAccess) {s : State} (hs : s.RegsInRange) : (hostAccess a s).RegsInRange := by
  obtain h | ⟨v, h⟩ | ⟨n, h⟩ | ⟨-, h⟩ | ⟨-, h⟩ | ⟨v, -, -, h⟩ | ⟨b, n, v, -, -, h⟩ := hostAccess_cases a s <;> rw [h]
  case inr.inr.inr.inl => exact regsInRange_resetBlock s
  all_goals exact hs

/-- Settles O56: the parameters never change, and legal parameters are what the range of `LDI` needs. -/
theorem stepKeepsRegistersInRange : Obligations.StepKeepsRegistersInRange := by
  intro s t hc hs h
  refine step_keeps (P := fun t => t.cfg = s.cfg ∧ t.RegsInRange) ?_ ?_ ?_ ?_ ?_ ⟨rfl, hs⟩ h
  · exact fun _ _ hp => hp
  · exact fun v i u _ hu ⟨hcfg, hregs⟩ => ⟨hu.cfg_eq.trans hcfg, hu.regsInRange (hcfg ▸ hc) hregs⟩
  · exact fun _ _ _ hp => hp
  · exact fun v a ⟨hcfg, hregs⟩ => ⟨(hostAccess_cfg a v).trans hcfg, regsInRange_hostAccess a hregs⟩
  · exact fun v _ ⟨hcfg, _⟩ => ⟨hcfg, regsInRange_resetBlock v⟩

/-! ### The position within the rate -/

/-- A legal capacity leaves a rate of 8 to 192 bytes (10_state.md R42). -/
theorem rate_bounds {s : State} (h : LegalCapacity s.cap.toNat) : 0 < rate s ∧ rate s < 200 := by
  unfold rate LegalCapacity at *
  omega

theorem absorb_pos_lt {r : Nat} (hr : 0 < r) (bytes : List Byte) :
    ∀ {st : Lanes × Nat}, st.2 < r → (absorb r st bytes).2 < r := by
  induction bytes with
  | nil => exact fun hst => hst
  | cons b bytes ih =>
    intro st hst
    refine ih ?_
    unfold absorbByte
    dsimp only
    split_ifs
    · exact hr
    · dsimp only; omega

theorem squeeze_pos_le {r : Nat} (hr : 0 < r) (n : Nat) :
    ∀ {st : Lanes × Nat}, st.2 ≤ r → (squeeze r n st).2.2 ≤ r := by
  induction n with
  | zero => exact fun hst => hst
  | succ n ih =>
    intro st hst
    refine ih ?_
    dsimp only
    split_ifs
    · exact hr
    · omega

/-- The position register holds every position up to the rate. -/
theorem toNat_ofNat_pos {p : Nat} (h : p < 200) : (BitVec.ofNat 8 p).toNat = p := by
  rw [BitVec.toNat_ofNat]
  omega

theorem spongeOk_writeSponge_absorb {s : State} (hc : LegalCapacity s.cap.toNat) (A : Lanes) {p : Nat}
    (hp : p < rate s) : (writeSponge s A .absorb p).SpongeOk := by
  refine ⟨hc, fun _ => ?_, fun hm => SpongeMode.noConfusion hm⟩
  rw [writeSponge_pos, toNat_ofNat_pos (hp.trans (rate_bounds hc).2)]
  exact hp

theorem spongeOk_writeSponge_squeeze {s : State} (hc : LegalCapacity s.cap.toNat) (A : Lanes) {p : Nat}
    (hp : p ≤ rate s) : (writeSponge s A .squeeze p).SpongeOk := by
  refine ⟨hc, fun hm => SpongeMode.noConfusion hm, fun _ => ?_⟩
  rw [writeSponge_pos, toNat_ofNat_pos (hp.trans_lt (rate_bounds hc).2)]
  exact hp

theorem toNat_ofNat_cap {c : BitVec 32} (hc : LegalCapacity (unsignedImm c)) :
    (BitVec.ofNat 11 (unsignedImm c)).toNat = unsignedImm c := by
  obtain ⟨-, hlt, -⟩ := hc
  rw [BitVec.toNat_ofNat]
  omega

theorem Effect.spongeOk {s u : State} {i : Instr} (h : Effect s i u) (hs : s.SpongeOk) : u.SpongeOk := by
  obtain ⟨hc, habs, hsqz⟩ := hs
  have hr : 0 < rate s := (rate_bounds hc).1
  cases h
  case kinit c hcap =>
    rw [← toNat_ofNat_cap hcap] at hcap
    exact spongeOk_writeSponge_absorb (s := { s with cap := _ }) hcap _ (rate_bounds hcap).1
  case kreset => exact spongeOk_writeSponge_absorb hc _ hr
  case kabs hm => exact spongeOk_writeSponge_absorb hc _ (absorb_pos_lt hr _ (habs hm))
  case kflip => exact spongeOk_writeSponge_squeeze hc _ hr.le
  case ksqz len addr hb hm =>
    have hpos := squeeze_pos_le hr len.toNat (st := (s.lanes, s.pos.toNat)) (hsqz hm)
    exact spongeOk_writeSponge_squeeze hc (squeeze (rate s) len.toNat (s.lanes, s.pos.toNat)).2.1 hpos
  all_goals exact ⟨hc, habs, hsqz⟩

theorem spongeOk_resetBlock (s : State) : (resetBlock s).SpongeOk := by
  refine ⟨?_, fun _ => ?_, fun hm => SpongeMode.noConfusion hm⟩
  · rw [resetBlock_cap]; decide
  · rw [rate, resetBlock_cap, resetBlock_pos]; decide

theorem spongeOk_hostAccess (a : HostAccess) {s : State} (hs : s.SpongeOk) : (hostAccess a s).SpongeOk := by
  obtain h | ⟨v, h⟩ | ⟨n, h⟩ | ⟨-, h⟩ | ⟨-, h⟩ | ⟨v, -, -, h⟩ | ⟨b, n, v, -, -, h⟩ := hostAccess_cases a s <;> rw [h]
  case inr.inr.inr.inl => exact spongeOk_resetBlock s
  all_goals exact hs

/-- Settles O58: each loop keeps its own bound on the position, and `KFLIP` and `KINIT` start from 0. -/
theorem stepKeepsThePositionWithinTheRate : Obligations.StepKeepsThePositionWithinTheRate :=
  fun _ _ => step_keeps (fun _ _ hs => hs) (fun _ _ _ _ hu hs => hu.spongeOk hs) (fun _ _ _ hs => hs)
    (fun _ a hs => spongeOk_hostAccess a hs) (fun s _ _ => spongeOk_resetBlock s)

/-! ### The fault registers -/

/-- No completing command writes a fault register. -/
theorem Effect.fault_registers_eq {s u : State} {i : Instr} (h : Effect s i u) :
    u.fault = s.fault ∧ u.cause = s.cause ∧ u.finfo = s.finfo := by
  cases h <;> exact ⟨rfl, rfl, rfl⟩

theorem Cause.code_bounds (c : Cause) : 1 ≤ c.code.toNat ∧ c.code.toNat ≤ 10 := by
  cases c <;> decide

/-- A command ends only in a busy block, which has recorded no fault. -/
theorem Effect.faultOk {s u : State} {i : Instr} (h : Effect s i u) (hb : s.busy = true) (hs : s.FaultOk) :
    (complete u).FaultOk := by
  obtain ⟨hfault, hcause, hfinfo⟩ := h.fault_registers_eq
  obtain ⟨hclear, hset⟩ := hs
  refine ⟨fun hf => ?_, fun hf => ?_⟩
  · rw [complete_cause, complete_finfo, hcause, hfinfo]
    exact hclear (hfault.symm.trans hf)
  · obtain ⟨hidle, -⟩ := hset (hfault.symm.trans hf)
    exact absurd hb (by simp [hidle])

theorem faultOk_enterFault (c : Cause) (s : State) : (enterFault c s).FaultOk :=
  ⟨fun hf => Bool.noConfusion hf, fun _ => ⟨rfl, Cause.code_bounds c⟩⟩

theorem faultOk_resetBlock (s : State) : (resetBlock s).FaultOk :=
  ⟨fun _ => ⟨rfl, rfl⟩, fun hf => Bool.noConfusion hf⟩

/-- A word is accepted only while no fault is recorded, so a faulted block stays idle. -/
theorem faultOk_hostAccess (a : HostAccess) {s : State} (hs : s.FaultOk) : (hostAccess a s).FaultOk := by
  obtain h | ⟨v, h⟩ | ⟨n, h⟩ | ⟨-, h⟩ | ⟨-, h⟩ | ⟨v, -, hf, h⟩ | ⟨b, n, v, -, -, h⟩ := hostAccess_cases a s <;> rw [h]
  case inr.inr.inr.inl => exact faultOk_resetBlock s
  case inr.inr.inr.inr.inr.inl => exact ⟨hs.1, fun hset => absurd hset (by simp [hf])⟩
  all_goals exact hs

/-- Settles O59. -/
theorem stepKeepsTheFaultRegisters : Obligations.StepKeepsTheFaultRegisters :=
  fun _ _ => step_keeps (fun _ _ hs => hs) (fun _ _ _ hb hu hs => hu.faultOk hb hs)
    (fun s c _ _ => faultOk_enterFault c s) (fun _ a hs => faultOk_hostAccess a hs)
    (fun s _ _ => faultOk_resetBlock s)

end Sys2Proof.Proofs
end

section
/-! The byte view of the sponge's lanes (10_state.md R45). -/

namespace Sys2Proof.Proofs
open Sys2Proof Sys2Proof.Machine

theorem stateByte_toNat (A : Lanes) {j : Nat} (h : j < 200) :
    (stateByte A j).toNat = (A[j / 8]'(by omega)).toNat / 2 ^ (8 * (j % 8)) % 256 := by
  have hj : j / 8 < 25 := by omega
  simp [stateByte, hj, Nat.shiftRight_eq_div_pow]

/-- Bit `i` of state byte `j` is bit `8·(j mod 8) + i` of its lane. -/
theorem stateByte_getLsbD (A : Lanes) {j i : Nat} (h : j < 200) (hi : i < 8) :
    (stateByte A j).getLsbD i = (A[j / 8]'(by omega)).getLsbD (8 * (j % 8) + i) := by
  have hj : j / 8 < 25 := by omega
  simp [stateByte, hj, hi]

theorem xorByte_getElem (A : Lanes) {j k : Nat} (b : Byte) (hk : k < 25) :
    (xorByte A j b)[k] = if k = j / 8 then A[k] ^^^ (b.setWidth 64 <<< (8 * (j % 8))) else A[k] := by
  unfold xorByte
  rw [Vector.getElem_setIfInBounds hk]
  split_ifs with h1 h2 h2
  · subst h1; simp [hk]
  · exact absurd h1.symm h2
  · exact absurd h2.symm h1
  · rfl

/-- Bit `8·q + i` of a byte shifted to byte `p` of a lane: the byte's bit `i` where `q = p`, and 0 elsewhere. -/
theorem shifted_byte_getLsbD (b : Byte) {p q i : Nat} (hq : q < 8) (hi : i < 8) :
    (b.setWidth 64 <<< (8 * p)).getLsbD (8 * q + i) = (decide (q = p) && b.getLsbD i) := by
  rw [BitVec.getLsbD_shiftLeft, BitVec.getLsbD_setWidth]
  obtain hlt | rfl | hgt := Nat.lt_trichotomy q p
  · have hbelow : 8 * q + i < 8 * p := by omega
    simp [hbelow, hlt.ne]
  · have hbit : 8 * q + i < 64 := by omega
    simp [hbit, show i < 64 by omega]
  · have habove : 8 ≤ 8 * q + i - 8 * p := by omega
    simp [BitVec.getLsbD_of_ge b _ habove, hgt.ne']

theorem stateByte_xorByte (A : Lanes) {j k : Nat} (b : Byte) (hk : k < 200) :
    stateByte (xorByte A j b) k = if k = j then stateByte A j ^^^ b else stateByte A k := by
  refine BitVec.eq_of_getLsbD_eq fun i hi => ?_
  have hq : k % 8 < 8 := Nat.mod_lt k (by decide)
  rw [stateByte_getLsbD _ hk hi, xorByte_getElem A b (by omega)]
  by_cases hlane : k / 8 = j / 8
  · rw [if_pos hlane, BitVec.getLsbD_xor, shifted_byte_getLsbD b hq hi, ← stateByte_getLsbD A hk hi]
    by_cases hbyte : k = j
    · subst hbyte; simp
    · have hplace : k % 8 ≠ j % 8 := by omega
      simp [hbyte, hplace]
  · have hbyte : k ≠ j := fun h => hlane (h ▸ rfl)
    rw [if_neg hlane, if_neg hbyte, stateByte_getLsbD A hk hi]

/-- Settles O36. -/
theorem stateBytesAreLittleEndianInALane : Obligations.StateBytesAreLittleEndianInALane :=
  fun A _ h b => ⟨stateByte_toNat A h, fun i => xorByte_getElem A b i.isLt, fun _ hk => stateByte_xorByte A b hk⟩

end Sys2Proof.Proofs
end

section
/-! The host's turn on a block that is not held in reset: the register map, the write of `CMD` and the two resets
(10_state.md R32 to R39, R48). -/

namespace Sys2Proof.Proofs
open Sys2Proof Sys2Proof.Machine

theorem step_of_host {s : State} {a : HostAccess} {rest : List Turn} (h : s.agenda = .host a :: rest) :
    step s = .next (hostAccess a { s with agenda := rest }) := by
  simp [step, takeTurn, h]

theorem step_of_releaseReset {s : State} {rest : List Turn} (h : s.agenda = .releaseReset :: rest) :
    step s = .next (releaseReset { s with agenda := rest }) := by
  simp [step, takeTurn, h]

/-! ### Accesses to a register -/

theorem targetOf_register (c : Config) {off : Nat} (h8 : off % 8 = 0) (hlt : off < 0x10000) :
    targetOf c off 8 = .register off := by
  unfold targetOf
  rw [if_neg (by omega), if_neg (by omega), if_pos ⟨rfl, h8⟩]

theorem hostRead_register {s : State} {off : Nat} (hpin : s.resetPin = false) (hidle : s.busy = false)
    (h8 : off % 8 = 0) (hlt : off < 0x10000) : hostRead off 8 s = answerRead (registerWord s off) s := by
  simp [hostRead, hpin, hidle, targetOf_register _ h8 hlt]

theorem hostWrite_register {s : State} {off : Nat} (v : Word) (hpin : s.resetPin = false) (h8 : off % 8 = 0)
    (hlt : off < 0x10000) :
    hostWrite off 8 v s =
      if off = 0x020 ∧ v.getLsbD 0 = true then resetBlock s
      else if s.busy then dropBusy s else if off = 0x000 then acceptCommand v s else s := by
  simp only [hostWrite, hpin, targetOf_register _ h8 hlt, Bool.false_eq_true, if_false]

theorem hostWrite_softReset {s : State} {v : Word} (hpin : s.resetPin = false) (hv : v.getLsbD 0 = true) :
    hostWrite 0x020 8 v s = resetBlock s := by
  rw [hostWrite_register v hpin (by decide) (by decide), if_pos ⟨rfl, hv⟩]

theorem hostWrite_command {s : State} (v : Word) (hpin : s.resetPin = false) :
    hostWrite 0x000 8 v s = if s.busy then dropBusy s else acceptCommand v s := by
  rw [hostWrite_register v hpin (by decide) (by decide), if_neg (fun h => absurd h.1 (by decide)), if_pos rfl]

/-- Every register but `CMD` and `CTRL` ignores a write, and `CTRL` one with bit 0 clear (10_state.md R32, R35). -/
theorem hostWrite_ignored {s : State} {off : Nat} {v : Word} (hpin : s.resetPin = false) (hidle : s.busy = false)
    (h8 : off % 8 = 0) (hlt : off < 0x10000) (hcmd : off ≠ 0x000) (hctrl : off = 0x020 → v.getLsbD 0 = false) :
    hostWrite off 8 v s = s := by
  have hreset : ¬(off = 0x020 ∧ v.getLsbD 0 = true) := by
    rintro ⟨hoff, hv⟩
    exact Bool.false_ne_true ((hctrl hoff).symm.trans hv)
  rw [hostWrite_register v hpin h8 hlt, if_neg hreset, hidle, if_neg Bool.false_ne_true, if_neg hcmd]

/-! ### The fields of the registers -/

/-- A concatenation as a sum: the low part does not overlap the shifted high part. -/
theorem toNat_append_eq_add {m n : Nat} (x : BitVec m) (y : BitVec n) :
    (x ++ y).toNat = x.toNat * 2 ^ n + y.toNat := by
  rw [BitVec.toNat_append, ← Nat.shiftLeft_add_eq_or_of_lt y.isLt, Nat.shiftLeft_eq]

theorem statusWord_toNat (s : State) :
    (statusWord s).toNat =
      s.cmdcnt.toNat * 2 ^ 32 + s.cause.toNat * 2 ^ 8 + s.ovr.toNat * 4 + s.fault.toNat * 2 + s.busy.toNat := by
  simp only [statusWord, toNat_append_eq_add, BitVec.toNat_ofBool, BitVec.ofNat_eq_ofNat, BitVec.toNat_ofNat]
  omega

theorem SpongeMode.bit_toNat (m : SpongeMode) : m.bit.toNat = if m = .squeeze then 1 else 0 := by
  cases m <;> rfl

theorem kcfgWord_toNat (s : State) :
    (kcfgWord s).toNat = s.pos.toNat * 2 ^ 24 + (if s.mode = .squeeze then 2 ^ 16 else 0) + s.cap.toNat := by
  simp only [kcfgWord, toNat_append_eq_add, SpongeMode.bit_toNat, BitVec.ofNat_eq_ofNat, BitVec.toNat_ofNat]
  split_ifs <;> omega

/-- Legal parameters fit their fields of `ID`. -/
theorem idWord_toNat {s : State} (hc : s.cfg.Legal) :
    (idWord s).toNat = 1 * 2 ^ 56 + 16 * 2 ^ 48 + s.cfg.bufsz * 2 ^ 16 + s.cfg.nlimb := by
  obtain ⟨⟨-, hn⟩, -, hb, -⟩ := hc
  simp only [idWord, numRegs, toNat_append_eq_add, BitVec.ofNat_eq_ofNat, BitVec.toNat_ofNat]
  omega

theorem registerWord_lane (s : State) (i : Fin 25) : registerWord s (0x100 + 8 * i.val) = s.lanes[i] := by
  have hi := i.isLt
  have hindex : (0x100 + 8 * i.val - 0x100) / 8 = i.val := by omega
  unfold registerWord
  rw [if_neg (by omega), if_neg (by omega), if_neg (by omega), if_neg (by omega), if_neg (by omega),
    if_neg (by omega), if_pos (by omega), hindex]
  simp

theorem registerWord_reserved (s : State) {off : Nat} (h8 : off % 8 = 0)
    (hnamed : off ∉ [0x008, 0x010, 0x018, 0x028, 0x030, 0x038]) (hlane : ∀ i : Fin 25, off ≠ 0x100 + 8 * i.val) :
    registerWord s off = 0 := by
  have hlanes : ¬(0x100 ≤ off ∧ off ≤ 0x1C0) := by
    rintro ⟨hlo, hhi⟩
    refine hlane ⟨(off - 0x100) / 8, by omega⟩ ?_
    dsimp only
    omega
  simp only [List.mem_cons, List.not_mem_nil, or_false, not_or] at hnamed
  obtain ⟨hstatus, hflags, hsres, hfinfo, hkcfg, hid⟩ := hnamed
  simp only [registerWord, hstatus, hflags, hsres, hfinfo, hkcfg, hid, hlanes, if_false]

/-- Settles O50. -/
theorem registerMapReadsAndWrites : Obligations.RegisterMapReadsAndWrites := by
  intro s rest off hidle hc h8 hlt
  refine ⟨fun ⟨hturn, hpin⟩ => ⟨registerWord s off, ?_, ?_, ?_, ?_, ?_, ?_, ?_, ?_, ?_⟩,
    fun v ⟨hturn, hpin⟩ hcmd hctrl => ?_⟩
  · rw [step_of_host hturn, hostAccess, hostRead_register (s := { s with agenda := rest }) hpin hidle h8 hlt]
    rfl
  · rintro rfl
    change (statusWord s).toNat = _
    simp [statusWord_toNat, hidle]
  · rintro rfl
    change (s.flags.setWidth 64).toNat = _
    exact BitVec.toNat_setWidth_of_le (by decide)
  · rintro rfl; rfl
  · rintro rfl; rfl
  · rintro rfl; exact kcfgWord_toNat s
  · rintro rfl; exact idWord_toNat hc
  · rintro i rfl; exact registerWord_lane s i
  · exact registerWord_reserved s h8
  · rw [step_of_host hturn, hostAccess, hostWrite_ignored (s := { s with agenda := rest }) hpin hidle h8 hlt hcmd hctrl]

/-- Settles O48. -/
theorem commandWriteIsAcceptedOrDropped : Obligations.CommandWriteIsAcceptedOrDropped := by
  rintro s rest w ⟨hturn, hpin⟩
  rw [step_of_host hturn, hostAccess, hostWrite_command (s := { s with agenda := rest }) w hpin]
  refine ⟨fun hidle hfault => ?_, fun hbusy => ?_, fun hidle hfault => ?_⟩
  · simp [acceptCommand, hidle, hfault]
  · simp [dropBusy, hbusy]
  · simp [acceptCommand, hidle, hfault]

/-! ### The reset state -/

theorem isReset_resetBlock (s : State) : (resetBlock s).IsReset := by
  exact ⟨fun r => by simp, rfl, rfl, rfl, rfl, rfl, rfl, rfl, rfl, fun i => by simp, rfl, rfl, rfl, fun _ => rfl⟩

/-- Settles O53: both resets are `resetBlock`, from whatever state. -/
theorem bothResetsLeaveTheResetState : Obligations.BothResetsLeaveTheResetState := by
  intro s rest
  constructor
  · rintro v hv ⟨hturn, hpin⟩
    refine ⟨resetBlock { s with agenda := rest }, ?_, isReset_resetBlock _, rfl, hpin, rfl⟩
    rw [step_of_host hturn, hostAccess, hostWrite_softReset (s := { s with agenda := rest }) hpin hv]
  · intro hturn
    exact ⟨_, step_of_releaseReset hturn, isReset_resetBlock _, rfl, rfl, rfl⟩

theorem isReset_reset : State.reset.IsReset :=
  ⟨fun r => by simp [State.reset], rfl, rfl, rfl, rfl, rfl, rfl, rfl, rfl, fun i => by simp [State.reset],
    rfl, rfl, rfl, fun _ => rfl⟩

/-- Settles O60; but for the draw of the free bytes, `State.reset` is what a reset leaves of it. -/
theorem resetStateMeetsTheInvariants : Obligations.ResetStateMeetsTheInvariants := by
  have hbuffer : State.reset.BufferOk := ⟨reset_memory_wf, fun _ hc => absurd hc List.not_mem_nil⟩
  have hregs : State.reset.RegsInRange := by
    intro r v hv
    simp [State.reset] at hv
  exact ⟨by decide, hregs, hbuffer, spongeOk_resetBlock State.reset, faultOk_resetBlock State.reset, isReset_reset⟩

end Sys2Proof.Proofs
end

section
/-! Who writes the buffer `BUF`, and where: `ST`, `KSQZ` and the host, each inside the range it names
(20_memory.md R61, R77; 10_state.md R46). -/

namespace Sys2Proof.Proofs
open Sys2Proof Sys2Proof.Machine

/-- A command that completes has left the buffer, and the draw of its free bytes, as they were, or stored bytes in a
range that lies in `BUF` and that an `ST` or `KSQZ` names. -/
theorem Effect.buffer_cases {s u : State} {i : Instr} (h : Effect s i u) :
    u.bufDraw = s.bufDraw ∧
      (u.buf = s.buf ∨ ∃ (len addr : BitVec 16) (bs : List Byte), ((∃ ra m, i = .st ra m len addr) ∨ i = .ksqz len addr) ∧
        InBuffer s len addr ∧ bs.length = len.toNat ∧ u.buf = insertBytes s.buf addr.toNat bs) := by
  cases h
  case st hb _ _ => exact ⟨rfl, .inr ⟨_, _, _, .inl ⟨_, _, rfl⟩, hb, encodeBytes_length _ _ _, rfl⟩⟩
  case ksqz hb _ => exact ⟨rfl, .inr ⟨_, _, _, .inr rfl, hb, squeeze_length _ _ _, rfl⟩⟩
  all_goals exact ⟨rfl, .inl rfl⟩

/-- Bytes stored inside `BUF` keep it canonical. -/
theorem bufferOk_of_insertBytes {s t : State} {a : Nat} {bs : List Byte} (hs : s.BufferOk)
    (hin : a + bs.length ≤ s.cfg.bufsz) (hcfg : t.cfg = s.cfg) (hbuf : t.buf = insertBytes s.buf a bs) :
    t.BufferOk := by
  obtain ⟨hwf, hlt⟩ := hs
  unfold State.BufferOk
  rw [hcfg, hbuf]
  refine ⟨insertBytes_wf bs a hwf, fun c hc => ?_⟩
  obtain ⟨-, hstored⟩ | hold := mem_insertBytes bs hc
  · exact hstored.trans_le hin
  · exact hlt c hold

theorem Effect.bufferOk {s u : State} {i : Instr} (h : Effect s i u) (hs : s.BufferOk) : u.BufferOk := by
  obtain ⟨-, hbuf | ⟨len, addr, bs, -, hin, hlen, hbuf⟩⟩ := h.buffer_cases
  · unfold State.BufferOk
    rwa [hbuf, h.cfg_eq]
  · exact bufferOk_of_insertBytes hs (hlen ▸ hin) h.cfg_eq hbuf

theorem bufferOk_resetBlock (s : State) : (resetBlock s).BufferOk :=
  ⟨reset_memory_wf, fun _ hc => absurd hc List.not_mem_nil⟩

theorem bufferOk_hostAccess (a : HostAccess) {s : State} (hs : s.BufferOk) : (hostAccess a s).BufferOk := by
  obtain h | ⟨v, h⟩ | ⟨n, h⟩ | ⟨-, h⟩ | ⟨-, h⟩ | ⟨v, -, -, h⟩ | ⟨b, n, v, -, hin, h⟩ := hostAccess_cases a s <;> rw [h]
  case inr.inr.inr.inl => exact bufferOk_resetBlock s
  case inr.inr.inr.inr.inr.inr => exact bufferOk_of_insertBytes hs ((wordBytes_length v n).symm ▸ hin) rfl rfl
  all_goals exact hs

/-- Settles O57: whoever stores bytes stores them inside `BUF`, and a reset lists none. -/
theorem stepKeepsTheBufferCanonical : Obligations.StepKeepsTheBufferCanonical :=
  fun _ _ => step_keeps (fun _ _ hs => hs) (fun _ _ _ _ hu hs => hu.bufferOk hs) (fun _ _ _ hs => hs)
    (fun _ a hs => bufferOk_hostAccess a hs) (fun s _ _ => bufferOk_resetBlock s)

/-- Settles O41: a byte outside the stored range reads as before, and a fault stores nothing. -/
theorem onlyStAndKsqzWriteTheBuffer : Obligations.OnlyStAndKsqzWriteTheBuffer := by
  intro i s t h a hne
  obtain ⟨u, hu, rfl⟩ | ⟨c, rfl⟩ := exec_cases h
  · obtain ⟨hdraw, hbuf | ⟨len, addr, bs, hi, hin, hlen, hbuf⟩⟩ := hu.buffer_cases
    · exact absurd (readByte_congr (s := s) (t := complete u) hbuf hdraw a) hne
    · have hstore : readByte (complete u) a = readByte (writeBytes s addr.toNat bs) a :=
        readByte_congr (s := writeBytes s addr.toNat bs) (t := complete u) hbuf hdraw a
      by_cases hrange : addr.toNat ≤ a ∧ a < addr.toNat + bs.length
      · exact ⟨len, addr, hi, hrange.1, hlen ▸ hrange.2, hin⟩
      · exact absurd (hstore.trans (readByte_writeBytes_outside hrange)) hne
  · exact absurd rfl hne

end Sys2Proof.Proofs
end

section
/-! The host's accesses to the buffer, to the reserved offsets above it, and in the busy window (20_memory.md R66, R72;
10_state.md R32, R46). -/

namespace Sys2Proof.Proofs
open Sys2Proof Sys2Proof.Machine

/-! ### What an access reaches -/

theorem targetOf_of_bufferAccess {c : Config} (hc : c.Legal) {off size : Nat} (h : BufferAccess c off size) :
    targetOf c off size = .buffer (off - 0x10000) size := by
  obtain ⟨-, -, hmax, -⟩ := hc
  obtain ⟨hlo, hsize, halign, hhi⟩ := h
  unfold targetOf
  rw [if_neg (by omega), if_pos (by omega), if_pos ⟨hsize, halign, hhi⟩]

theorem targetOf_of_reservedAccess {c : Config} {off size : Nat} (h : ReservedAccess c off size) :
    targetOf c off size = .register off := by
  obtain ⟨hsize, halign, hlo, hhi⟩ := h
  unfold targetOf
  rw [if_neg (by omega), if_neg (by omega), if_pos ⟨hsize, halign⟩]

theorem targetOf_eq_malformed_iff {c : Config} (hc : c.Legal) {off size : Nat} :
    targetOf c off size = .malformed ↔
      ¬(RegisterAccess off size ∨ BufferAccess c off size ∨ ReservedAccess c off size) := by
  constructor
  · rintro htarget (⟨rfl, h8, hlt⟩ | hbuffer | hreserved)
    · rw [targetOf_register c h8 hlt] at htarget
      exact Target.noConfusion htarget
    · rw [targetOf_of_bufferAccess hc hbuffer] at htarget
      exact Target.noConfusion htarget
    · rw [targetOf_of_reservedAccess hreserved] at htarget
      exact Target.noConfusion htarget
  · rw [not_or, not_or]
    rintro ⟨hregister, hbuffer, hreserved⟩
    unfold targetOf
    split_ifs with hend hwindow hform hword
    · rfl
    · exact absurd ⟨hwindow.1, hform⟩ hbuffer
    · rfl
    · obtain ⟨hsize, halign⟩ := hword
      by_cases hlow : off < 0x10000
      · exact absurd ⟨hsize, halign, hlow⟩ hregister
      · exact absurd ⟨hsize, halign, by omega, by omega⟩ hreserved
    · rfl

/-- Only an access at `off` reaches the register at `off`. -/
theorem eq_of_targetOf_eq_register {c : Config} {off size o : Nat} (h : targetOf c off size = .register o) : o = off := by
  unfold targetOf at h
  split_ifs at h
  exact (Target.register.inj h).symm

/-! ### The busy window -/

theorem hostRead_status {s : State} (hpin : s.resetPin = false) : hostRead 0x008 8 s = answerRead (statusWord s) s := by
  simp [hostRead, hpin, targetOf_register s.cfg (off := 0x008) (by decide) (by decide), registerWord]

theorem hostRead_busy {s : State} {off : Nat} (size : Nat) (hpin : s.resetPin = false) (hbusy : s.busy = true)
    (hoff : off ≠ 0x008) : hostRead off size s = answerUnspecified size s := by
  rw [hostRead, hpin, if_neg Bool.false_ne_true]
  cases htarget : targetOf s.cfg off size with
  | malformed => rfl
  | register o =>
    obtain rfl := eq_of_targetOf_eq_register htarget
    exact if_pos ⟨hbusy, hoff⟩
  | buffer a n => exact if_pos hbusy

theorem hostWrite_busy {s : State} {off size : Nat} {v : Word} (hpin : s.resetPin = false) (hbusy : s.busy = true)
    (htarget : targetOf s.cfg off size ≠ .malformed) (hreset : ¬(off = 0x020 ∧ v.getLsbD 0 = true)) :
    hostWrite off size v s = dropBusy s := by
  rw [hostWrite, hpin, if_neg Bool.false_ne_true]
  cases hkind : targetOf s.cfg off size with
  | malformed => exact absurd hkind htarget
  | register o =>
    obtain rfl := eq_of_targetOf_eq_register hkind
    exact (if_neg hreset).trans (if_pos hbusy)
  | buffer a n => exact if_pos hbusy

/-- Settles O49: an accepted access has a target, so only `STATUS` is read and only a reset or the drop is written. -/
theorem busyWindowProtectsTheBlock : Obligations.BusyWindowProtectsTheBlock := by
  intro s rest off size v hbusy hc haccess
  have hsize : off < 0x10000 → size = 8 := by
    intro hlt
    obtain ⟨hsize, -⟩ | ⟨hlo, -⟩ | ⟨-, -, hlo, -⟩ := haccess
    · exact hsize
    · omega
    · omega
  refine ⟨fun ⟨hturn, hpin⟩ => ?_, fun ⟨hturn, hpin⟩ => ⟨fun hoff hv => ?_, fun hreset => ?_⟩⟩
  · rw [step_of_host hturn, hostAccess]
    by_cases hoff : off = 0x008
    · obtain rfl := hsize (by omega)
      subst hoff
      rw [hostRead_status (s := { s with agenda := rest }) hpin]
      refine ⟨statusWord s, s.readDraw, rfl, fun _ => ⟨rfl, ?_⟩⟩
      rw [statusWord_toNat, hbusy, Bool.toNat_true]
    · rw [hostRead_busy (s := { s with agenda := rest }) size hpin hbusy hoff]
      exact ⟨_, _, rfl, fun h => absurd h hoff⟩
  · obtain rfl := hsize (by omega)
    subst hoff
    refine ⟨_, step_of_host hturn, ?_⟩
    rw [hostAccess, hostWrite_softReset (s := { s with agenda := rest }) hpin hv]
    exact isReset_resetBlock _
  · have htarget : targetOf s.cfg off size ≠ .malformed := fun h => (targetOf_eq_malformed_iff hc).mp h haccess
    rw [step_of_host hturn, hostAccess, hostWrite_busy (s := { s with agenda := rest }) hpin hbusy htarget hreset]
    rfl

/-! ### Malformed accesses and reserved offsets -/

theorem hostRead_malformed {s : State} {off size : Nat} (h : targetOf s.cfg off size = .malformed) :
    hostRead off size s = answerUnspecified size s := by
  simp [hostRead, h]

theorem hostWrite_malformed {s : State} {off size : Nat} (v : Word) (h : targetOf s.cfg off size = .malformed) :
    hostWrite off size v s = s := by
  simp [hostWrite, h]

/-- The offsets above the window's start are none of the registers. -/
theorem registerWord_above (s : State) {off : Nat} (h : 0x10000 ≤ off) : registerWord s off = 0 := by
  unfold registerWord
  rw [if_neg (by omega), if_neg (by omega), if_neg (by omega), if_neg (by omega), if_neg (by omega),
    if_neg (by omega), if_neg (by omega)]

theorem hostRead_reserved {s : State} {off size : Nat} (hpin : s.resetPin = false) (hidle : s.busy = false)
    (h : ReservedAccess s.cfg off size) : hostRead off size s = answerRead 0 s := by
  have habove : 0x10000 ≤ off := by omega
  simp [hostRead, hpin, hidle, targetOf_of_reservedAccess h, registerWord_above s habove]

theorem hostWrite_reserved {s : State} {off size : Nat} (v : Word) (hpin : s.resetPin = false) (hidle : s.busy = false)
    (h : ReservedAccess s.cfg off size) : hostWrite off size v s = s := by
  have hctrl : off ≠ 0x020 := by omega
  have hcmd : off ≠ 0x000 := by omega
  simp only [hostWrite, hpin, hidle, targetOf_of_reservedAccess h, hctrl, hcmd, false_and, Bool.false_eq_true, if_false]

/-- Settles O52: the three kinds are exactly the accesses that reach anything, and no register stands above `BUF`. -/
theorem otherAccessesChangeNothing : Obligations.OtherAccessesChangeNothing := by
  intro s rest off size v hc
  constructor
  · intro hregister hbuffer hreserved
    have htarget : targetOf s.cfg off size = .malformed :=
      (targetOf_eq_malformed_iff hc).mpr (not_or.mpr ⟨hregister, not_or.mpr ⟨hbuffer, hreserved⟩⟩)
    refine ⟨fun ⟨hturn, _⟩ => ?_, fun ⟨hturn, _⟩ => ?_⟩
    · rw [step_of_host hturn, hostAccess, hostRead_malformed (s := { s with agenda := rest }) htarget]
      exact ⟨_, rfl⟩
    · rw [step_of_host hturn, hostAccess, hostWrite_malformed (s := { s with agenda := rest }) v htarget]
  · intro hreserved hidle
    refine ⟨fun ⟨hturn, hpin⟩ => ?_, fun ⟨hturn, hpin⟩ => ?_⟩
    · rw [step_of_host hturn, hostAccess, hostRead_reserved (s := { s with agenda := rest }) hpin hidle hreserved]
      rfl
    · rw [step_of_host hturn, hostAccess, hostWrite_reserved (s := { s with agenda := rest }) v hpin hidle hreserved]

/-! ### The bytes of a bus word -/

/-- The bus word whose low bytes are the given ones, the first the least significant (20_memory.md R66). -/
def wordOfBytes (bs : List Byte) : Word := bs.foldr (fun b w => (w <<< 8) ||| b.setWidth 64) 0

theorem bufferWord_eq_wordOfBytes (s : State) (a n : Nat) : bufferWord s a n = wordOfBytes (readBytes s a n) := rfl

theorem decodeLE_lt (bs : List Byte) : decodeLE bs < 256 ^ bs.length := by
  induction bs with
  | nil => exact Nat.one_pos
  | cons b bs ih =>
    have hb : b.toNat < 256 := b.isLt
    rw [decodeLE, List.length_cons, Nat.pow_succ]
    omega

/-- Digit `k` to base 256 of a little-endian reading is its byte `k`. -/
theorem decodeLE_div_pow_mod (bs : List Byte) :
    ∀ {k : Nat} (hk : k < bs.length), decodeLE bs / 256 ^ k % 256 = bs[k].toNat := by
  induction bs with
  | nil => exact fun hk => absurd hk (Nat.not_lt_zero _)
  | cons b bs ih =>
    intro k hk
    have hb : b.toNat < 256 := b.isLt
    cases k with
    | zero =>
      rw [decodeLE, Nat.pow_zero, Nat.div_one, List.getElem_cons_zero]
      omega
    | succ k =>
      have hrest : (b.toNat + 256 * decodeLE bs) / 256 = decodeLE bs := by omega
      rw [decodeLE, Nat.pow_succ', ← Nat.div_div_eq_div_mul, hrest, List.getElem_cons_succ]
      exact ih (Nat.lt_of_succ_lt_succ hk)

/-- At most eight bytes fit a bus word, which then reads as their little-endian value. -/
theorem wordOfBytes_toNat (bs : List Byte) (h : bs.length ≤ 8) : (wordOfBytes bs).toNat = decodeLE bs := by
  induction bs with
  | nil => rfl
  | cons b bs ih =>
    have hlen : bs.length ≤ 7 := Nat.le_of_succ_le_succ h
    have hpow : 256 ^ bs.length ≤ 256 ^ 7 := Nat.pow_le_pow_right (by decide) hlen
    have hrest : decodeLE bs < 2 ^ 56 := (decodeLE_lt bs).trans_le hpow
    have hb : b.toNat < 2 ^ 8 := b.isLt
    have hword : (wordOfBytes bs).toNat = decodeLE bs := ih (by omega)
    have hshift : (wordOfBytes bs <<< 8).toNat = decodeLE bs <<< 8 := by
      rw [BitVec.toNat_shiftLeft, hword, Nat.shiftLeft_eq]
      omega
    have hcons : wordOfBytes (b :: bs) = (wordOfBytes bs <<< 8) ||| b.setWidth 64 := rfl
    rw [hcons, BitVec.toNat_or, hshift, BitVec.toNat_setWidth_of_le (by decide), ← Nat.shiftLeft_add_eq_or_of_lt hb,
      Nat.shiftLeft_eq, decodeLE]
    omega

theorem bufferWord_toNat (s : State) (a : Nat) {n : Nat} (hn : n ≤ 8) :
    (bufferWord s a n).toNat = decodeLE (readBytes s a n) := by
  rw [bufferWord_eq_wordOfBytes, wordOfBytes_toNat _ ((readBytes_length s a n).trans_le hn)]

theorem readBytes_getElem (s : State) (a : Nat) {n k : Nat} (hk : k < (readBytes s a n).length) :
    (readBytes s a n)[k] = readByte s (a + k) := by
  simp [readBytes]

theorem wordBytes_getElem_toNat (v : Word) {n k : Nat} (hk : k < (wordBytes v n).length) :
    (wordBytes v n)[k].toNat = v.toNat / 256 ^ k % 256 := by
  simp [wordBytes, Nat.shiftRight_eq_div_pow, Nat.pow_mul]

/-! ### Accesses to the buffer -/

theorem hostRead_buffer {s : State} {a n : Nat} (hpin : s.resetPin = false) (hidle : s.busy = false)
    (hc : s.cfg.Legal) (h : BufferAccess s.cfg (0x10000 + a) n) :
    hostRead (0x10000 + a) n s = answerRead (bufferWord s a n) s := by
  simp [hostRead, hpin, hidle, targetOf_of_bufferAccess hc h]

theorem hostWrite_buffer {s : State} {a n : Nat} (v : Word) (hpin : s.resetPin = false) (hidle : s.busy = false)
    (hc : s.cfg.Legal) (h : BufferAccess s.cfg (0x10000 + a) n) :
    hostWrite (0x10000 + a) n v s = writeBytes s a (wordBytes v n) := by
  simp [hostWrite, hpin, hidle, targetOf_of_bufferAccess hc h]

/-- Settles O51: a bus word is the little-endian reading of its bytes, and a write stores its digits to base 256. -/
theorem bufferAccessesMoveTheirBytes : Obligations.BufferAccessesMoveTheirBytes := by
  intro s rest a n hidle hc haccess
  refine ⟨fun ⟨hturn, hpin⟩ => ?_, fun v ⟨hturn, hpin⟩ => ?_⟩
  · have hn : n ≤ 8 := by omega
    have hlen := readBytes_length s a n
    refine ⟨bufferWord s a n, ?_, ?_, fun k hk => ?_⟩
    · rw [step_of_host hturn, hostAccess, hostRead_buffer (s := { s with agenda := rest }) hpin hidle hc haccess]
      rfl
    · rw [bufferWord_toNat s a hn]
      exact (decodeLE_lt (readBytes s a n)).trans_eq (congrArg (256 ^ ·) hlen)
    · rw [bufferWord_toNat s a hn, decodeLE_div_pow_mod _ (hlen.symm ▸ hk), readBytes_getElem]
  · have hlen := wordBytes_length v n
    refine ⟨writeBytes { s with agenda := rest } a (wordBytes v n), ?_, rfl, fun k hk => ?_, fun x hx => ?_⟩
    · rw [step_of_host hturn, hostAccess, hostWrite_buffer (s := { s with agenda := rest }) v hpin hidle hc haccess]
    · rw [readByte_writeBytes_inside (hlen.symm ▸ hk), wordBytes_getElem_toNat]
    · exact readByte_writeBytes_outside (s := { s with agenda := rest }) (by omega)

end Sys2Proof.Proofs
end

section
/-! The opcode map read row by row (30_encoding.md R91, R92, R98): a word matches a row exactly when it is the encoding of
the command that the row builds from it, and the decoder answers `i` exactly on the encoding of a well-formed `i`. -/

namespace Sys2Proof.Proofs
open Sys2Proof Sys2Proof.Machine Sys2Proof.Laws

/-! ### What a mask asks of a word -/

/-- The fields `f` with the given `op`, cut to the bits that a row's `mask` leaves free: the live ones (30_encoding.md R92). -/
def liveFields (op : BitVec 8) (mask : Word) (f : Fields) : Fields where
  op := op
  rd := f.rd &&& ~~~(fieldsOf mask).rd
  ra := f.ra &&& ~~~(fieldsOf mask).ra
  rb := f.rb &&& ~~~(fieldsOf mask).rb
  rc := f.rc &&& ~~~(fieldsOf mask).rc
  fn := f.fn &&& ~~~(fieldsOf mask).fn
  imm := f.imm &&& ~~~(fieldsOf mask).imm

/-- No bit of `x` lies in `m` exactly when the bits outside `m` are all of `x`. -/
theorem and_eq_zero_iff_and_not_eq {n : Nat} (x m : BitVec n) : x &&& m = 0 ↔ x &&& ~~~m = x := by
  simp only [BitVec.ofNat_eq_ofNat, BitVec.eq_of_getLsbD_eq_iff, BitVec.getLsbD_and, BitVec.getLsbD_not,
    BitVec.getLsbD_zero]
  refine forall₂_congr fun i hi => ?_
  cases x.getLsbD i <;> simp [hi]

theorem pack_inj {f g : Fields} : pack f = pack g ↔ f = g := ⟨pack_injective, congrArg pack⟩

/-- A word matches `op` under a mask that covers `op` exactly when cutting it to its live bits drops nothing. -/
theorem and_mask_eq_iff {op : BitVec 8} {mask w : Word} (hop : (fieldsOf mask).op = 0xFF) :
    w &&& mask = pack (.ofOp op) ↔ liveFields op mask (fieldsOf w) = fieldsOf w := by
  have hand := pack_and_pack (fieldsOf w) (fieldsOf mask)
  have hopAll : (fieldsOf w).op &&& 0xFF = (fieldsOf w).op := BitVec.and_allOnes
  rw [pack_fieldsOf, pack_fieldsOf, hop, hopAll] at hand
  rw [hand, pack_inj]
  generalize fieldsOf w = f
  obtain ⟨fop, rd, ra, rb, rc, fn, imm⟩ := f
  simp only [Fields.ofOp, liveFields, Fields.mk.injEq, and_eq_zero_iff_and_not_eq, eq_comm (a := op)]

/-! ### The formats: each mask leaves free the fields that its commands use (30_encoding.md R92) -/

@[simp] theorem and_ones_four (x : BitVec 4) : x &&& 15#4 = x := BitVec.and_allOnes

@[simp] theorem and_ones_thirtyTwo (x : BitVec 32) : x &&& 4294967295#32 = x := BitVec.and_allOnes

@[simp] theorem fnOfMode_mode (f : Fields) : fnOfMode f.mode = f.fn &&& 3#8 :=
  (by decide : ∀ fn : BitVec 8, fnOfMode (toCodec (fn.extractLsb' 0 2)) = fn &&& 3#8) f.fn

@[simp] theorem re_append_zero (f : Fields) : f.re ++ 0#4 = f.fn &&& 240#8 :=
  (by decide : ∀ fn : BitVec 8, fn.extractLsb' 4 4 ++ 0#4 = fn &&& 240#8) f.fn

@[simp] theorem append_ofBool_shake (f : Fields) : 0#7 ++ BitVec.ofBool f.shake = f.fn &&& 1#8 :=
  (by decide : ∀ fn : BitVec 8, 0#7 ++ BitVec.ofBool (fn.getLsbD 0) = fn &&& 1#8) f.fn

@[simp] theorem len_append_addr (f : Fields) : f.len ++ f.addr = f.imm := by
  refine BitVec.eq_of_getLsbD_eq fun i hi => ?_
  simp only [Fields.len, Fields.addr, BitVec.getLsbD_append, BitVec.getLsbD_extractLsb']
  grind

section
variable (op : BitVec 8) (f : Fields)

theorem ofOp_eq_live : Fields.ofOp op = liveFields op 0xFFFFFFFFFFFFFFFF#64 f := by
  simp [Fields.ofOp, liveFields, fieldsOf]

theorem fieldsR1_eq_live : fieldsR1 op (toReg f.rd) (toReg f.ra) = liveFields op 0xFF00FFFFFFFFFFFF#64 f := by
  simp [fieldsR1, Fields.ofOp, liveFields, fieldsOf]

theorem fieldsR2_eq_live :
    fieldsR2 op (toReg f.rd) (toReg f.ra) (toReg f.rb) = liveFields op 0xFF000FFFFFFFFFFF#64 f := by
  simp [fieldsR2, Fields.ofOp, liveFields, fieldsOf]

theorem fieldsR3_eq_live :
    fieldsR3 op (toReg f.rd) (toReg f.ra) (toReg f.rb) (toReg f.rc) = liveFields op 0xFF0000FFFFFFFFFF#64 f := by
  simp [fieldsR3, Fields.ofOp, liveFields, fieldsOf]

theorem fieldsRI_eq_live : fieldsRI op (toReg f.rd) (toReg f.ra) f.imm = liveFields op 0xFF00FFFF00000000#64 f := by
  simp [fieldsRI, Fields.ofOp, liveFields, fieldsOf]

theorem fieldsS_eq_live : fieldsS op (toReg f.ra) = liveFields op 0xFFF0FFFFFFFFFFFF#64 f := by
  simp [fieldsS, Fields.ofOp, liveFields, fieldsOf]

theorem fieldsK_eq_live : fieldsK op f.len f.addr = liveFields op 0xFFFFFFFF00000000#64 f := by
  simp [fieldsK, Fields.ofOp, liveFields, fieldsOf]

end

/-! The formats I, M, SM, SI, RX, KI and KF have no function of their own in the encoder: their masks are read at the
command. -/

theorem encodeFields_ldi (f : Fields) :
    encodeFields (.ldi (toReg f.rd) f.imm) = liveFields 0x10 0xFF0FFFFF00000000#64 f := by
  simp [encodeFields, Fields.ofOp, liveFields, fieldsOf]

theorem encodeFields_ld (f : Fields) :
    encodeFields (.ld (toReg f.rd) f.mode f.len f.addr) = liveFields 0x12 0xFF0FFFFC00000000#64 f := by
  simp [encodeFields, fieldsK, Fields.ofOp, liveFields, fieldsOf]

theorem encodeFields_st (f : Fields) :
    encodeFields (.st (toReg f.ra) f.mode f.len f.addr) = liveFields 0x13 0xFFF0FFFC00000000#64 f := by
  simp [encodeFields, fieldsK, Fields.ofOp, liveFields, fieldsOf]

theorem encodeFields_enclen (f : Fields) :
    encodeFields (.enclen (toReg f.ra) f.mode) = liveFields 0x14 0xFFF0FFFCFFFFFFFF#64 f := by
  simp [encodeFields, fieldsS, Fields.ofOp, liveFields, fieldsOf]

theorem encodeFields_tbit (f : Fields) :
    encodeFields (.tbit (toReg f.ra) f.imm) = liveFields 0x39 0xFFF0FFFF00000000#64 f := by
  simp [encodeFields, fieldsS, Fields.ofOp, liveFields, fieldsOf]

theorem encodeFields_xgcd (f : Fields) :
    encodeFields (.xgcd (toReg f.rd) (toReg f.rc) (toReg f.re) (toReg f.ra) (toReg f.rb)) =
      liveFields 0x42 0xFF00000FFFFFFFFF#64 f := by
  simp [encodeFields, fieldsR3, Fields.ofOp, liveFields, fieldsOf]

theorem encodeFields_kinit (f : Fields) : encodeFields (.kinit f.imm) = liveFields 0x50 0xFFFFFFFF00000000#64 f := by
  simp [encodeFields, Fields.ofOp, liveFields, fieldsOf]

theorem encodeFields_kflip (f : Fields) : encodeFields (.kflip f.shake) = liveFields 0x53 0xFFFFFFFEFFFFFFFF#64 f := by
  simp [encodeFields, Fields.ofOp, liveFields, fieldsOf]

/-! ### The opcode map, row by row -/

/-- Encoding what a row builds from fields gives back their live bits under the row's `op`. -/
def RowKeepsLiveFields (row : OpcodeRow) : Prop :=
  ∀ f, encodeFields (row.build f) = liveFields row.op row.mask f

theorem rowKeepsLiveFields_of_mem : ∀ row ∈ opcodeTable, RowKeepsLiveFields row :=
  List.forall_iff_forall_mem.1
    ⟨ofOp_eq_live 0x01, -- NOP
      encodeFields_ldi,
      fieldsR1_eq_live 0x11, -- MOV
      encodeFields_ld,
      encodeFields_st,
      encodeFields_enclen,
      fieldsR2_eq_live 0x20, -- ADD
      fieldsR2_eq_live 0x21, -- SUB
      fieldsR1_eq_live 0x22, -- NEG
      fieldsR2_eq_live 0x23, -- MUL
      fieldsR3_eq_live 0x24, -- DIVREM
      fieldsR2_eq_live 0x25, -- MOD
      fieldsR2_eq_live 0x30, -- AND
      fieldsR2_eq_live 0x31, -- OR
      fieldsR2_eq_live 0x32, -- XOR
      fieldsR1_eq_live 0x33, -- NOT
      fieldsRI_eq_live 0x34, -- SHL
      fieldsRI_eq_live 0x35, -- SHR
      fieldsS_eq_live 0x38, -- TST
      encodeFields_tbit,
      fieldsS_eq_live 0x3A, -- BITLEN
      fieldsS_eq_live 0x3B, -- CTZ
      fieldsR2_eq_live 0x40, -- MODINV
      fieldsR2_eq_live 0x41, -- GCD
      encodeFields_xgcd,
      fieldsR3_eq_live 0x43, -- MODPOW
      encodeFields_kinit,
      ofOp_eq_live 0x51, -- KRESET
      fieldsK_eq_live 0x52, -- KABS
      encodeFields_kflip,
      fieldsK_eq_live 0x54, -- KSQZ
      ofOp_eq_live 0x55⟩ -- KPERM

/-- The `match` of every row is its `op` in the top byte and its mask covers `op` (30_encoding.md R98). -/
theorem pattern_and_maskOp_of_mem : ∀ row ∈ opcodeTable, row.pattern = pack (.ofOp row.op) ∧ (fieldsOf row.mask).op = 0xFF := by
  decide

/-- Ops are unique (30_encoding.md R99). -/
theorem ops_pairwise_ne : opcodeTable.Pairwise fun r q => r.op ≠ q.op := by
  decide

/-- A word matches a row exactly when it is the encoding of what the row builds from it. -/
theorem matches_row_iff {row : OpcodeRow} (hrow : row ∈ opcodeTable) (w : Word) :
    w &&& row.mask = row.pattern ↔ encode (row.build (fieldsOf w)) = w := by
  obtain ⟨hpattern, hop⟩ := pattern_and_maskOp_of_mem row hrow
  rw [hpattern, and_mask_eq_iff hop, ← rowKeepsLiveFields_of_mem row hrow (fieldsOf w)]
  exact ⟨fun h => by rw [encode, h, pack_fieldsOf], fun h => by rw [← fieldsOf_pack (encodeFields _), ← encode, h]⟩

/-- A word that matches a row has the row's `op`. -/
theorem op_eq_of_matches_row {row : OpcodeRow} (hrow : row ∈ opcodeTable) {w : Word} (h : w &&& row.mask = row.pattern) :
    (fieldsOf w).op = row.op := by
  obtain ⟨hpattern, hop⟩ := pattern_and_maskOp_of_mem row hrow
  exact (congrArg Fields.op ((and_mask_eq_iff hop).1 (h.trans hpattern))).symm

/-- The row found for an `op` is the one row of the map that has it (30_encoding.md R99). -/
theorem rowOf_eq_some_iff {op : BitVec 8} {row : OpcodeRow} : rowOf op = some row ↔ row ∈ opcodeTable ∧ row.op = op := by
  constructor
  · exact fun h => ⟨List.mem_of_find?_eq_some h, by simpa using List.find?_some h⟩
  · rintro ⟨hrow, hop⟩
    obtain ⟨found, hfound⟩ : ∃ found, rowOf op = some found :=
      Option.isSome_iff_exists.1 (List.find?_isSome.2 ⟨row, hrow, by simpa using hop⟩)
    have hfop : found.op = op := by simpa using List.find?_some hfound
    have hnodup : (opcodeTable.map OpcodeRow.op).Nodup := List.pairwise_map.2 ops_pairwise_ne
    rw [hfound, List.inj_on_of_nodup_map hnodup (List.mem_of_find?_eq_some hfound) hrow (hfop.trans hop.symm)]

/-! ### The decoder and the encoder -/

/-- The decoder's accepting case, by rows: the word matches a row and what the row builds is well formed. -/
theorem decode_eq_ok_iff_row {w : Word} {i : Instr} :
    decode w = .ok i ↔
      ∃ row ∈ opcodeTable, w &&& row.mask = row.pattern ∧ i.WellFormed = true ∧ row.build (fieldsOf w) = i := by
  constructor
  · intro h
    rw [decode_eq] at h
    split at h
    · cases h
    · rename_i row hrow
      split at h
      · cases h
      · rename_i hmatch
        split at h
        · rename_i hwf
          obtain rfl := Except.ok.inj h
          exact ⟨row, (rowOf_eq_some_iff.1 hrow).1, not_not.1 hmatch, hwf, rfl⟩
        · cases h
  · rintro ⟨row, hrow, hmatch, hwf, rfl⟩
    rw [decode_eq, rowOf_eq_some_iff.2 ⟨hrow, (op_eq_of_matches_row hrow hmatch).symm⟩]
    simp [hmatch, hwf]

/-- The round trip through the fields, for every command. -/
theorem fieldsRoundTrip : ∀ i, FieldsRoundTrip.Statement i
  | .nop => FieldsRoundTrip.nop
  | .ldi rd imm => FieldsRoundTrip.ldi rd imm
  | .mov rd ra => FieldsRoundTrip.mov rd ra
  | .ld rd mode len addr => FieldsRoundTrip.ld rd mode len addr
  | .st ra mode len addr => FieldsRoundTrip.st ra mode len addr
  | .enclen ra mode => FieldsRoundTrip.enclen ra mode
  | .add rd ra rb => FieldsRoundTrip.add rd ra rb
  | .sub rd ra rb => FieldsRoundTrip.sub rd ra rb
  | .neg rd ra => FieldsRoundTrip.neg rd ra
  | .mul rd ra rb => FieldsRoundTrip.mul rd ra rb
  | .divrem rd rc ra rb => FieldsRoundTrip.divrem rd rc ra rb
  | .mod rd ra rb => FieldsRoundTrip.mod rd ra rb
  | .and rd ra rb => FieldsRoundTrip.and rd ra rb
  | .or rd ra rb => FieldsRoundTrip.or rd ra rb
  | .xor rd ra rb => FieldsRoundTrip.xor rd ra rb
  | .not rd ra => FieldsRoundTrip.not rd ra
  | .shl rd ra n => FieldsRoundTrip.shl rd ra n
  | .shr rd ra n => FieldsRoundTrip.shr rd ra n
  | .tst ra => FieldsRoundTrip.tst ra
  | .tbit ra n => FieldsRoundTrip.tbit ra n
  | .bitlen ra => FieldsRoundTrip.bitlen ra
  | .ctz ra => FieldsRoundTrip.ctz ra
  | .modinv rd ra rb => FieldsRoundTrip.modinv rd ra rb
  | .gcd rd ra rb => FieldsRoundTrip.gcd rd ra rb
  | .xgcd rd rc re ra rb => FieldsRoundTrip.xgcd rd rc re ra rb
  | .modpow rd ra rb rc => FieldsRoundTrip.modpow rd ra rb rc
  | .kinit c => FieldsRoundTrip.kinit c
  | .kreset => FieldsRoundTrip.kreset
  | .kabs len addr => FieldsRoundTrip.kabs len addr
  | .kflip shake => FieldsRoundTrip.kflip shake
  | .ksqz len addr => FieldsRoundTrip.ksqz len addr
  | .kperm => FieldsRoundTrip.kperm

/-- The decoder answers `i` exactly on the encoding of `i`, and only when `i` is well formed: the two directions are the two
round trips. -/
theorem decode_eq_ok_iff {w : Word} {i : Instr} : decode w = .ok i ↔ encode i = w ∧ i.WellFormed = true := by
  rw [decode_eq_ok_iff_row]
  constructor
  · rintro ⟨row, hrow, hmatch, hwf, rfl⟩
    exact ⟨(matches_row_iff hrow w).1 hmatch, hwf⟩
  · rintro ⟨rfl, hwf⟩
    obtain ⟨row, hfound, hbuild⟩ := fieldsRoundTrip i
    have hrow := (rowOf_eq_some_iff.1 hfound).1
    have hrebuild : row.build (fieldsOf (encode i)) = i := by rw [encode, fieldsOf_pack, hbuild]
    exact ⟨row, hrow, (matches_row_iff hrow _).2 (congrArg encode hrebuild), hwf, hrebuild⟩

/-- Settles O1: the encoding of a command matches its row, which builds the command back. -/
theorem decodeOfEncodeIsTheCommand : Obligations.DecodeOfEncodeIsTheCommand :=
  fun _ hwf => decode_eq_ok_iff.2 ⟨rfl, hwf⟩

/-- Settles O2: a word that matches a row is the encoding of what the row builds from it. -/
theorem encodeOfDecodeIsTheWord : Obligations.EncodeOfDecodeIsTheWord :=
  fun _ _ => decode_eq_ok_iff.1

/-! ### Distinct destinations on the word -/

theorem ofReg_inj {r q : Reg} : ofReg r = ofReg q ↔ r = q :=
  ⟨fun h => by rw [← toReg_ofReg r, h, toReg_ofReg], congrArg ofReg⟩

/-- The destinations of a word, read from its fields. -/
theorem distinctDestinations_iff (w : Word) :
    DistinctDestinations w ↔
      ((fieldsOf w).op = 0x24 → (fieldsOf w).rd ≠ (fieldsOf w).rc) ∧
      ((fieldsOf w).op = 0x42 →
        (fieldsOf w).rd ≠ (fieldsOf w).rc ∧ (fieldsOf w).rd ≠ (fieldsOf w).re ∧ (fieldsOf w).rc ≠ (fieldsOf w).re) := by
  have hre : (fieldsOf w).re = w.extractLsb' 36 4 := by
    refine BitVec.eq_of_getLsbD_eq fun i hi => ?_
    simp only [Fields.re, fieldsOf, BitVec.getLsbD_extractLsb']
    grind
  rw [hre]
  rfl

/-- The extra condition of 30_encoding.md R98 says of a command's word what it says of the command. -/
theorem distinctDestinations_encode (i : Instr) : DistinctDestinations (encode i) ↔ i.WellFormed = true := by
  rw [distinctDestinations_iff, encode, fieldsOf_pack]
  cases i
  case divrem => simp [encodeFields, fieldsR3, Fields.ofOp, Instr.WellFormed, ofReg_inj]
  case xgcd => simp [encodeFields, fieldsR3, Fields.ofOp, Instr.WellFormed, ofReg_inj, Fields.re, and_assoc]
  -- no other command has one of the two ops
  all_goals exact iff_of_true ⟨nofun, nofun⟩ rfl

/-- Settles O3: the decoder's accepting case by rows, where the well-formedness of the command is read on its word. -/
theorem decodeAcceptsExactlyTheTable : Obligations.DecodeAcceptsExactlyTheTable := by
  refine ⟨rfl, by decide, ops_pairwise_ne.imp_of_mem fun hr hq hne w ⟨hmr, hmq⟩ => ?_, fun w i => ?_⟩
  · exact hne ((op_eq_of_matches_row hr hmr).symm.trans (op_eq_of_matches_row hq hmq))
  · rw [decode_eq_ok_iff_row]
    refine exists_congr fun row => and_congr_right fun hrow => and_congr_right fun hmatch => and_congr_left ?_
    rintro rfl
    rw [← distinctDestinations_encode, (matches_row_iff hrow w).1 hmatch]

end Sys2Proof.Proofs
end

section
/-! How a command ends, in the words of the statements (60_exceptions.md R281, R283), and which words a row of the opcode
map stands for (30_encoding.md R98): the two layers that every command's own statement is built from. -/

namespace Sys2Proof.Proofs
open Sys2Proof Sys2Proof.Machine

/-! ### The words of a row -/

theorem decode_eq_ok_build_iff {op : BitVec 8} {row : OpcodeRow} (hrow : rowOf op = some row) (w : Word) :
    decode w = .ok (row.build (fieldsOf w)) ↔
      w &&& row.mask = row.pattern ∧ (row.build (fieldsOf w)).WellFormed = true := by
  rw [decode_eq_ok_iff, matches_row_iff (rowOf_eq_some_iff.1 hrow).1]

/-- A row without a condition on its destinations decodes every word that matches it. -/
theorem encodedAs_of_rowOf {op : BitVec 8} {row : OpcodeRow} (hrow : rowOf op = some row)
    (hwf : ∀ f, (row.build f).WellFormed = true) : EncodedAs row.pattern row.mask fun w => row.build (fieldsOf w) :=
  fun w => ((decode_eq_ok_build_iff hrow w).trans (and_iff_left (hwf _))).symm

/-! ### The tests of a command, one by one, up to its end -/

section
variable {s : State} {ra rb : Reg} {a b : Int}

theorem finish_source_of_none (h : s.regs[ra] = none) (f : Int → Except Cause State) :
    finish s (source s ra >>= f) = .next (s.faulted 2) := by
  rw [source_of_none h]; rfl

theorem finish_source_of_some (h : s.regs[ra] = some a) (f : Int → Except Cause State) :
    finish s (source s ra >>= f) = finish s (f a) := by
  rw [source_of_some h]; rfl

/-- Whichever of two sources has no value, the cause is the same (10_state.md R23). -/
theorem finish_sources_of_none (h : s.regs[ra] = none ∨ s.regs[rb] = none) (f : Int → Int → Except Cause State) :
    finish s (source s ra >>= fun a => source s rb >>= f a) = .next (s.faulted 2) := by
  cases ha : s.regs[ra] with
  | none => exact finish_source_of_none ha _
  | some a =>
    have hb : s.regs[rb] = none := h.resolve_left (by simp [ha])
    rw [finish_source_of_some ha, finish_source_of_none hb]

theorem finish_sources_of_some (ha : s.regs[ra] = some a) (hb : s.regs[rb] = some b)
    (f : Int → Int → Except Cause State) :
    finish s (source s ra >>= fun a => source s rb >>= f a) = finish s (f a b) := by
  rw [finish_source_of_some ha, finish_source_of_some hb]

theorem finish_require_of_true {p : Prop} [Decidable p] {c : Cause} (h : p) (f : Unit → Except Cause State) :
    finish s (require p c >>= f) = finish s (f ()) := by
  rw [require_of_true c h]; rfl

theorem finish_require_of_false {p : Prop} [Decidable p] {c : Cause} (h : ¬p) (f : Unit → Except Cause State) :
    finish s (require p c >>= f) = .next (s.faulted c.code) := by
  rw [require_of_false c h]; rfl

/-- The end of a command whose last test is that of the range: counted in range, code 10 out of range. -/
theorem finish_requireInRange (v : Int) (t : State) :
    (InRange s.cfg v → finish s (require (InRange s.cfg v) .rangeOverflow >>= fun _ => pure t) = .next t.counted) ∧
    (¬InRange s.cfg v → finish s (require (InRange s.cfg v) .rangeOverflow >>= fun _ => pure t) = .next (s.faulted 10)) :=
  ⟨fun h => finish_require_of_true h _, fun h => finish_require_of_false h _⟩

end

end Sys2Proof.Proofs
end

section
/-! The arithmetic commands (40_arith.md). -/

namespace Sys2Proof.Proofs
open Sys2Proof Sys2Proof.Machine

/-! ### Addition, subtraction, negation, multiplication -/

/-- The shape that `ADD`, `SUB` and `MUL` share (40_arith.md R122, R123, R125): an exact operation on two sources, and the
test of its range. -/
def exactBinary (op : Int → Int → Int) (rd ra rb : Reg) (s : State) : Host.Outcome State Fault Refusal :=
  finish s do
    let a ← source s ra
    let b ← source s rb
    require (InRange s.cfg (op a b)) .rangeOverflow
    return writeReg s rd (op a b)

section
variable {s : State} {rd ra rb : Reg} {a b : Int}

theorem exec_add : exec (.add rd ra rb) s = exactBinary (· + ·) rd ra rb s := rfl

theorem exec_sub : exec (.sub rd ra rb) s = exactBinary (· - ·) rd ra rb s := rfl

theorem exec_mul : exec (.mul rd ra rb) s = exactBinary (· * ·) rd ra rb s := rfl

theorem exactBinary_of_none (op : Int → Int → Int) (h : s.regs[ra] = none ∨ s.regs[rb] = none) :
    exactBinary op rd ra rb s = .next (s.faulted 2) :=
  finish_sources_of_none h _

theorem exactBinary_of_some (op : Int → Int → Int) (ha : s.regs[ra] = some a) (hb : s.regs[rb] = some b) :
    (InRange s.cfg (op a b) → exactBinary op rd ra rb s = .next (s.withReg rd (op a b)).counted) ∧
    (¬InRange s.cfg (op a b) → exactBinary op rd ra rb s = .next (s.faulted 10)) := by
  rw [exactBinary, finish_sources_of_some ha hb]
  exact finish_requireInRange (op a b) (writeReg s rd (op a b))

theorem exec_neg_of_none (h : s.regs[ra] = none) : exec (.neg rd ra) s = .next (s.faulted 2) :=
  finish_source_of_none h _

theorem exec_neg_of_some (ha : s.regs[ra] = some a) :
    (InRange s.cfg (-a) → exec (.neg rd ra) s = .next (s.withReg rd (-a)).counted) ∧
    (¬InRange s.cfg (-a) → exec (.neg rd ra) s = .next (s.faulted 10)) := by
  rw [exec, execNeg, finish_source_of_some ha]
  exact finish_requireInRange (-a) (writeReg s rd (-a))

end

/-- The range has one value more below 0 than above (40_arith.md R124). -/
theorem not_inRange_neg_iff {c : Config} {a : Int} (ha : InRange c a) : ¬InRange c (-a) ↔ a = -2 ^ (c.width - 1) := by
  unfold InRange at *
  push_cast at *
  omega

/-- Settles O13: the two binary commands by their common shape, the negation by the asymmetry of the range. -/
theorem addSubNegAreExact : Obligations.AddSubNegAreExact := by
  refine ⟨encodedAs_of_rowOf (op := 0x20) rfl fun _ => rfl, encodedAs_of_rowOf (op := 0x21) rfl fun _ => rfl,
    encodedAs_of_rowOf (op := 0x22) rfl fun _ => rfl, fun s rd ra rb => ⟨fun h => ?_, exec_neg_of_none,
      fun a b ha hb => ?_, fun a ha => ?_⟩⟩
  · rw [exec_add, exec_sub]
    exact ⟨exactBinary_of_none _ h, exactBinary_of_none _ h⟩
  · obtain ⟨hadd, hadd'⟩ := exactBinary_of_some (· + ·) (rd := rd) ha hb
    obtain ⟨hsub, hsub'⟩ := exactBinary_of_some (· - ·) (rd := rd) ha hb
    rw [exec_add, exec_sub]
    exact ⟨hadd, hadd', hsub, hsub'⟩
  · obtain ⟨hneg, hneg'⟩ := exec_neg_of_some (rd := rd) ha
    exact ⟨hneg, hneg', not_inRange_neg_iff⟩

/-- Settles O14: the common shape, at the product. -/
theorem mulIsExact : Obligations.MulIsExact := by
  refine ⟨encodedAs_of_rowOf (op := 0x23) rfl fun _ => rfl, fun s rd ra rb => ?_⟩
  rw [exec_mul]
  exact ⟨exactBinary_of_none (· * ·), fun _ _ => exactBinary_of_some (· * ·)⟩

/-! ### Division -/

theorem exec_divrem_of_none {s : State} {rd rc ra rb : Reg} (hd : rd ≠ rc)
    (h : s.regs[ra] = none ∨ s.regs[rb] = none) : exec (.divrem rd rc ra rb) s = .next (s.faulted 2) := by
  rw [exec, execDivrem, finish_require_of_true hd]
  exact finish_sources_of_none h _

theorem exec_divrem_of_some {s : State} {rd rc ra rb : Reg} {a b : Int} (hd : rd ≠ rc) (ha : s.regs[ra] = some a)
    (hb : s.regs[rb] = some b) :
    (b = 0 → exec (.divrem rd rc ra rb) s = .next (s.faulted 5)) ∧
    (b ≠ 0 →
      (InRange s.cfg (tdiv a b) →
        exec (.divrem rd rc ra rb) s = .next ((s.withReg rd (tdiv a b)).withReg rc (trem a b)).counted) ∧
      (¬InRange s.cfg (tdiv a b) → exec (.divrem rd rc ra rb) s = .next (s.faulted 10))) := by
  rw [exec, execDivrem, finish_require_of_true hd, finish_sources_of_some ha hb]
  refine ⟨fun h0 => finish_require_of_false (not_not.2 h0) _, fun h0 => ?_⟩
  rw [finish_require_of_true h0]
  exact finish_requireInRange (tdiv a b) (writeReg (writeReg s rd (tdiv a b)) rc (trem a b))

theorem eq_tdiv_mul_add_trem (a b : Int) : a = tdiv a b * b + trem a b := by
  rw [trem]; ring

/-- The remainder has the sign of the dividend. -/
theorem trem_eq_zero_or_sign_eq (a b : Int) : trem a b = 0 ∨ (trem a b).sign = a.sign := by
  rw [trem_eq_tmod]
  by_cases hdvd : b ∣ a
  · exact .inl (Int.tmod_eq_zero_of_dvd hdvd)
  · exact .inr (by rw [Int.sign_tmod, if_neg hdvd])

theorem tdiv_neg_one (a : Int) : tdiv a (-1) = -a := by
  rw [tdiv_eq_tdiv, Int.tdiv_neg, Int.tdiv_one]

/-- A quotient by another divisor than −1 stays in range: by 1 it is the dividend, and a divisor of magnitude 2 or more
halves the magnitude at least. -/
theorem inRange_tdiv {c : Config} {a b : Int} (ha : InRange c a) (hb : b ≠ 0) (hne : b ≠ -1) : InRange c (tdiv a b) := by
  obtain rfl | hone := eq_or_ne b 1
  · rwa [tdiv_eq_tdiv, Int.tdiv_one]
  · have hmag : (tdiv a b).natAbs ≤ a.natAbs / 2 := by
      rw [tdiv_eq_tdiv, Int.natAbs_tdiv]
      exact Nat.div_le_div_left (by omega) (by decide)
    obtain rfl | ha0 := eq_or_ne a 0
    · rwa [tdiv_eq_tdiv, Int.zero_tdiv]
    · exact inRange_of_natAbs_lt ha (by omega)

/-- The least integer by −1 is the one division of operands in range that overflows (40_arith.md R126). -/
theorem not_inRange_tdiv_iff {c : Config} {a b : Int} (ha : InRange c a) (hb : b ≠ 0) :
    ¬InRange c (tdiv a b) ↔ a = -2 ^ (c.width - 1) ∧ b = -1 := by
  obtain rfl | hne := eq_or_ne b (-1)
  · rw [tdiv_neg_one, not_inRange_neg_iff ha, and_iff_left rfl]
  · exact iff_of_false (not_not.2 (inRange_tdiv ha hb hne)) fun h => hne h.2

/-- The words of `DIVREM` are those of its row that name two destinations (30_encoding.md R98). -/
theorem divrem_words (w : Word) :
    (w &&& 0xFF0000FFFFFFFFFF = 0x2400000000000000 ∧ regAt w 52 ≠ regAt w 40) ↔
      decode w = .ok (.divrem (regAt w 52) (regAt w 40) (regAt w 48) (regAt w 44)) :=
  (and_congr_right fun _ => bne_iff_ne.symm).trans (decode_eq_ok_build_iff (op := 0x24) rfl w).symm

/-- Settles O15, with the model's quotient and remainder as witnesses. -/
theorem divremTruncates : Obligations.DivremTruncates := by
  refine ⟨divrem_words, fun s rd rc ra rb hd => ⟨exec_divrem_of_none hd, fun a b ha hb => ?_⟩⟩
  obtain ⟨hzero, hdiv⟩ := exec_divrem_of_some hd ha hb
  refine ⟨hzero, fun h0 => ?_⟩
  obtain ⟨hin, hout⟩ := hdiv h0
  exact ⟨tdiv a b, trem a b, rfl, eq_tdiv_mul_add_trem a b, natAbs_trem_lt a h0, trem_eq_zero_or_sign_eq a b, hin, hout,
    fun hra hrb => ⟨inRange_of_natAbs_lt hrb (natAbs_trem_lt a h0), not_inRange_tdiv_iff hra h0⟩⟩

/-! ### The representative modulo `m` -/

theorem exec_mod_of_none {s : State} {rd ra rb : Reg} (h : s.regs[ra] = none ∨ s.regs[rb] = none) :
    exec (.mod rd ra rb) s = .next (s.faulted 2) :=
  finish_sources_of_none h _

theorem exec_mod_of_some {s : State} {rd ra rb : Reg} {a m : Int} (ha : s.regs[ra] = some a) (hm : s.regs[rb] = some m) :
    (m = 0 → exec (.mod rd ra rb) s = .next (s.faulted 5)) ∧
    (m ≠ 0 → exec (.mod rd ra rb) s = .next (s.withReg rd (emod a m)).counted) := by
  rw [exec, execMod, finish_sources_of_some ha hm]
  exact ⟨fun h0 => finish_require_of_false (not_not.2 h0) _, fun h0 => finish_require_of_true h0 _⟩

theorem emod_nonneg (a : Int) {m : Int} (hm : m ≠ 0) : 0 ≤ emod a m := by
  rw [emod_eq_emod]
  exact Int.emod_nonneg a (by omega)

theorem dvd_sub_emod (a m : Int) : m ∣ a - emod a m := by
  rw [emod_eq_emod]
  exact Int.natAbs_dvd.1 Int.dvd_self_sub_emod

/-- Settles O16: the representative is below the modulus in magnitude, so it is in range with it. -/
theorem modGivesTheRepresentative : Obligations.ModGivesTheRepresentative := by
  refine ⟨encodedAs_of_rowOf (op := 0x25) rfl fun _ => rfl,
    fun s rd ra rb => ⟨exec_mod_of_none, fun a m ha hm => ?_⟩⟩
  obtain ⟨hzero, hmod⟩ := exec_mod_of_some ha hm
  refine ⟨hzero, fun h0 => ?_⟩
  have hnonneg := emod_nonneg a h0
  have hlt := natAbs_emod_lt a h0
  exact ⟨emod a m, hnonneg, by omega, dvd_sub_emod a m, fun hr => inRange_of_natAbs_lt hr hlt, hmod h0⟩

end Sys2Proof.Proofs
end

section
/-! The bits of an integer (00_scope.md R9, R10; 41_bitwise_predicates.md R140): what the model's bitwise functions, shifts
and counts say of the infinite two's-complement expansion. -/

namespace Sys2Proof.Proofs
open Sys2Proof Sys2Proof.Machine

/-! ### One bit -/

theorem shiftRight_eq_ediv (v : Int) (n : Nat) : shiftRight v n = v / 2 ^ n := by
  rw [shiftRight, Int.shiftRight_eq_div_pow]; norm_cast

theorem bit_eq_bitOf (v : Int) (i : Nat) : bit v i = bitOf v i := by
  rw [bit, bitOf, shiftRight_eq_ediv]; rfl

/-- The statement's bit is the library's, on which its bitwise operations are proved to act. -/
theorem bitOf_eq_testBit (v : Int) (i : Nat) : bitOf v i = v.testBit i := by
  rw [bitOf, ← shiftRight_eq_ediv]
  cases v with
  | ofNat n =>
    have hshift : shiftRight (.ofNat n) i = (n / 2 ^ i : Nat) := congrArg Int.ofNat (Nat.shiftRight_eq_div_pow n i)
    rw [hshift, Int.testBit, Nat.testBit_eq_decide_div_mod_eq, decide_eq_decide]
    omega
  | negSucc n =>
    have hshift : shiftRight (.negSucc n) i = .negSucc (n / 2 ^ i) :=
      congrArg Int.negSucc (Nat.shiftRight_eq_div_pow n i)
    rw [hshift, Int.testBit, Nat.testBit_eq_decide_div_mod_eq, ← decide_not, decide_eq_decide]
    omega

theorem bitOf_ediv_two_pow (v : Int) (n i : Nat) : bitOf (v / 2 ^ n) i = bitOf v (i + n) := by
  rw [bitOf, bitOf, Int.ediv_ediv_of_nonneg (by positivity), ← pow_add, Nat.add_comm]

/-! ### The bitwise operations -/

/-- The model's difference of bits is the library's. -/
theorem andNotNat_eq_ldiff (a b : Nat) : andNotNat a b = a.ldiff b := by
  apply Nat.eq_of_testBit_eq
  intro i
  rw [andNotNat, Nat.testBit_xor, Nat.testBit_and, Nat.testBit_ldiff]
  cases a.testBit i <;> simp

theorem bitwiseAnd_eq_land (a b : Int) : bitwiseAnd a b = a.land b := by
  cases a <;> cases b <;> simp only [bitwiseAnd, andNotNat_eq_ldiff] <;> rfl

theorem bitwiseOr_eq_lor (a b : Int) : bitwiseOr a b = a.lor b := by
  cases a <;> cases b <;> simp only [bitwiseOr, andNotNat_eq_ldiff] <;> rfl

theorem bitwiseXor_eq_xor (a b : Int) : bitwiseXor a b = a.xor b := by
  cases a <;> cases b <;> rfl

theorem bitOf_bitwiseAnd (a b : Int) (i : Nat) : bitOf (bitwiseAnd a b) i = (bitOf a i && bitOf b i) := by
  simp only [bitOf_eq_testBit, bitwiseAnd_eq_land, Int.testBit_land]

theorem bitOf_bitwiseOr (a b : Int) (i : Nat) : bitOf (bitwiseOr a b) i = (bitOf a i || bitOf b i) := by
  simp only [bitOf_eq_testBit, bitwiseOr_eq_lor, Int.testBit_lor]

theorem bitOf_bitwiseXor (a b : Int) (i : Nat) : bitOf (bitwiseXor a b) i = (bitOf a i ^^ bitOf b i) := by
  simp only [bitOf_eq_testBit, bitwiseXor_eq_xor, Int.testBit_lxor]

theorem bitwiseNot_eq_lnot (a : Int) : bitwiseNot a = a.lnot := by
  cases a <;> simp only [bitwiseNot, Int.lnot, Int.ofNat_eq_natCast] <;> omega

theorem bitOf_bitwiseNot (a : Int) (i : Nat) : bitOf (bitwiseNot a) i = !bitOf a i := by
  simp only [bitOf_eq_testBit, bitwiseNot_eq_lnot, Int.testBit_lnot]

/-! ### Shifts and the bit length -/

theorem shiftLeft_eq_mul (a : Int) (n : Nat) : shiftLeft a n = a * 2 ^ n := by
  unfold shiftLeft
  split_ifs with h
  · rw [h, zero_mul]
  · push_cast; rfl

theorem shiftRight_eq_floor (a : Int) (n : Nat) : shiftRight a n = ⌊(a : ℚ) / 2 ^ n⌋ := by
  have hfloor := Rat.floor_intCast_div_natCast a (2 ^ n)
  push_cast at hfloor
  rw [shiftRight_eq_ediv, hfloor]

theorem two_pow_le_of_lt_bitlenNat {n j : Nat} (h : j < bitlenNat n) : 2 ^ j ≤ n := by
  unfold bitlenNat at h
  split_ifs at h with h0
  · omega
  · exact (Nat.pow_le_pow_right (by decide) (Nat.le_of_lt_succ h)).trans (Nat.log2_self_le h0)

theorem bitlenNat_toNat_spec {u : Int} (hu : 0 ≤ u) :
    u < 2 ^ bitlenNat u.toNat ∧ ∀ j < bitlenNat u.toNat, 2 ^ j ≤ u := by
  lift u to Nat using hu
  rw [Int.toNat_natCast]
  exact ⟨mod_cast lt_two_pow_bitlenNat u, fun j hj => mod_cast two_pow_le_of_lt_bitlenNat hj⟩

theorem isBitlen_bitlen (v : Int) : IsBitlen v (bitlen v) := by
  unfold IsBitlen bitlen
  split_ifs with hv
  · exact bitlenNat_toNat_spec hv
  · exact bitlenNat_toNat_spec (by omega)

/-- The bit length is the least width, sign bit apart, that holds the value (41_bitwise_predicates.md R150). -/
theorem le_iff_of_isBitlen {v : Int} {k : Nat} (h : IsBitlen v k) (m : Nat) : k ≤ m ↔ -2 ^ m ≤ v ∧ v < 2 ^ m := by
  obtain ⟨hlt, hleast⟩ := h
  constructor
  · intro hkm
    have hpow : (2 : Int) ^ k ≤ 2 ^ m := pow_le_pow_right₀ (by norm_num) hkm
    split_ifs at hlt <;> omega
  · intro hm
    by_contra hmk
    have hle := hleast m (by omega)
    split_ifs at hle <;> omega

theorem inRange_iff_two_pow {c : Config} {v : Int} :
    InRange c v ↔ -2 ^ (c.width - 1) ≤ v ∧ v < 2 ^ (c.width - 1) := by
  unfold InRange
  push_cast
  omega

theorem inRange_iff_of_isBitlen {c : Config} {v : Int} {k : Nat} (h : IsBitlen v k) : InRange c v ↔ k ≤ c.width - 1 :=
  inRange_iff_two_pow.trans (le_iff_of_isBitlen h _).symm

/-- The two forms of the range test of `SHL` (41_bitwise_predicates.md R146). -/
theorem inRange_mul_two_pow_iff {c : Config} {a : Int} {k : Nat} (h : IsBitlen a k) (ha : a ≠ 0) (n : Nat) :
    InRange c (a * 2 ^ n) ↔ k + n ≤ c.width - 1 := by
  have hpos : (0 : Int) < 2 ^ n := by positivity
  rw [inRange_iff_two_pow]
  obtain hn | hn := Nat.lt_or_ge (c.width - 1) n
  · have hpow : (2 : Int) ^ (c.width - 1) < 2 ^ n := pow_lt_pow_right₀ (by norm_num) hn
    refine iff_of_false (fun ⟨hlo, hhi⟩ => ?_) (by omega)
    obtain hneg | hge := lt_or_ge a 0
    · have hle : a * 2 ^ n ≤ -1 * 2 ^ n := mul_le_mul_of_nonneg_right (by omega) hpos.le
      omega
    · have hle : 1 * 2 ^ n ≤ a * 2 ^ n := mul_le_mul_of_nonneg_right (by omega) hpos.le
      omega
  · obtain ⟨m, hm⟩ := Nat.exists_eq_add_of_le' hn
    rw [hm, Nat.add_le_add_iff_right, le_iff_of_isBitlen h, pow_add, ← neg_mul, mul_le_mul_iff_of_pos_right hpos,
      mul_lt_mul_iff_of_pos_right hpos]

theorem shiftFits_iff {c : Config} {a : Int} {n : Nat} : ShiftFits c a n ↔ InRange c (a * 2 ^ n) := by
  obtain rfl | ha := eq_or_ne a 0
  · rw [zero_mul]
    exact iff_of_true (.inl rfl) (inRange_ofNat_iff.2 (Nat.two_pow_pos _))
  · rw [inRange_mul_two_pow_iff (isBitlen_bitlen a) ha]
    exact or_iff_right ha

/-! ### The flags -/

theorem getLsbD_append_ofBool (b0 b1 b2 b3 : Bool) :
    let f := BitVec.ofBool b3 ++ BitVec.ofBool b2 ++ BitVec.ofBool b1 ++ BitVec.ofBool b0
    f.getLsbD 0 = b0 ∧ f.getLsbD 1 = b1 ∧ f.getLsbD 2 = b2 ∧ f.getLsbD 3 = b3 := by
  revert b0 b1 b2 b3
  decide

theorem flagsOf_bits (v : Int) :
    ((flagsOf v).getLsbD 0 = true ↔ v = 0) ∧ ((flagsOf v).getLsbD 1 = true ↔ v < 0) ∧
    ((flagsOf v).getLsbD 2 = true ↔ v % 2 = 1) ∧ ((flagsOf v).getLsbD 3 = true ↔ v = 1) := by
  obtain ⟨hzero, hneg, hodd, hone⟩ := getLsbD_append_ofBool (v == 0) (decide (v < 0)) (bit v 0) (v == 1)
  rw [flagsOf, hzero, hneg, hodd, hone, bit_eq_bitOf, bitOf, pow_zero, Int.ediv_one]
  simp only [beq_iff_eq, decide_eq_true_iff, and_self]

/-! ### Trailing zeros -/

/-- Halving until the number is odd splits off the power of 2; a fuel above the bit length is enough. -/
theorem exists_odd_ctzFuel {fuel n : Nat} (h0 : n ≠ 0) (hn : n < 2 ^ fuel) :
    ∃ m, n = 2 ^ ctzFuel fuel n * (2 * m + 1) := by
  induction fuel generalizing n with
  | zero => omega
  | succ fuel ih =>
    unfold ctzFuel
    split_ifs with hodd
    · exact ⟨n / 2, by omega⟩
    · obtain ⟨m, hm⟩ := ih (n := n / 2) (by omega) (by omega)
      refine ⟨m, ?_⟩
      rw [pow_succ', mul_assoc, ← hm]
      omega

theorem exists_odd_ctz {v : Int} (hv : 0 < v) : ∃ m : Int, v = 2 ^ ctz v * (2 * m + 1) := by
  have hlt : v.toNat < 2 ^ bitlen v := by
    have h := (bitlen_bounds v).2
    zify
    omega
  obtain ⟨m, hm⟩ := exists_odd_ctzFuel (by omega) hlt
  refine ⟨m, ?_⟩
  zify at hm
  rwa [Int.toNat_of_nonneg hv.le] at hm

section
variable {v m : Int} {k : Nat}

theorem two_pow_succ_not_dvd_of_odd_part (h : v = 2 ^ k * (2 * m + 1)) : ¬(2 : Int) ^ (k + 1) ∣ v := by
  rw [h, pow_succ, mul_dvd_mul_iff_left (by positivity)]
  omega

theorem bitOf_self_of_odd_part (h : v = 2 ^ k * (2 * m + 1)) : bitOf v k = true := by
  rw [bitOf, h, Int.mul_ediv_cancel_left _ (by positivity), decide_eq_true_iff]
  omega

theorem bitOf_lt_of_odd_part (h : v = 2 ^ k * (2 * m + 1)) {i : Nat} (hi : i < k) : bitOf v i = false := by
  obtain ⟨j, rfl⟩ := Nat.exists_eq_add_of_lt hi
  have hsplit : v = 2 ^ i * (2 * (2 ^ j * (2 * m + 1))) := by rw [h]; ring
  rw [bitOf, hsplit, Int.mul_ediv_cancel_left _ (by positivity), decide_eq_false_iff_not]
  omega

end

end Sys2Proof.Proofs
end

section
/-! The bitwise, shift and predicate commands (41_bitwise_predicates.md). -/

namespace Sys2Proof.Proofs
open Sys2Proof Sys2Proof.Machine

/-- Settles O17: the three commands read two sources and cannot fail after that. -/
theorem andOrXorActBitByBit : Obligations.AndOrXorActBitByBit := by
  refine ⟨encodedAs_of_rowOf (op := 0x30) rfl fun _ => rfl, encodedAs_of_rowOf (op := 0x31) rfl fun _ => rfl,
    encodedAs_of_rowOf (op := 0x32) rfl fun _ => rfl, fun s rd ra rb => ⟨fun h => ?_, fun a b ha hb => ?_⟩⟩
  · exact ⟨finish_sources_of_none h _, finish_sources_of_none h _, finish_sources_of_none h _⟩
  · exact ⟨bitwiseAnd a b, bitwiseOr a b, bitwiseXor a b,
      bitOf_bitwiseAnd a b, finish_sources_of_some ha hb _,
      bitOf_bitwiseOr a b, finish_sources_of_some ha hb _,
      bitOf_bitwiseXor a b, finish_sources_of_some ha hb _,
      fun hra hrb => ⟨inRange_bitwiseAnd hra hrb, inRange_bitwiseOr hra hrb, inRange_bitwiseXor hra hrb⟩⟩

/-- Settles O18: the complement of every bit is the library's `lnot`. -/
theorem notComplementsEveryBit : Obligations.NotComplementsEveryBit :=
  ⟨encodedAs_of_rowOf (op := 0x33) rfl fun _ => rfl, fun _ _ _ => ⟨fun h => finish_source_of_none h _,
    fun a ha => ⟨finish_source_of_some ha _, bitOf_bitwiseNot a, inRange_bitwiseNot⟩⟩⟩

theorem exec_shl_of_some {s : State} {rd ra : Reg} {a : Int} (ha : s.regs[ra] = some a) (n : BitVec 32) :
    (InRange s.cfg (a * 2 ^ n.toNat) →
      exec (.shl rd ra n) s = .next (s.withReg rd (a * 2 ^ n.toNat)).counted) ∧
    (¬InRange s.cfg (a * 2 ^ n.toNat) → exec (.shl rd ra n) s = .next (s.faulted 10)) := by
  rw [exec, execShl, finish_source_of_some ha, shiftLeft_eq_mul]
  exact ⟨fun h => finish_require_of_true (shiftFits_iff.2 h) _,
    fun h => finish_require_of_false (mt shiftFits_iff.1 h) _⟩

/-- Settles O19: the model tests the bit length, the statement the product; the two tests agree. -/
theorem shlMultipliesByPowerOfTwo : Obligations.ShlMultipliesByPowerOfTwo := by
  refine ⟨encodedAs_of_rowOf (op := 0x34) rfl fun _ => rfl,
    fun s rd ra n => ⟨fun h => finish_source_of_none h _, fun a ha => ?_⟩⟩
  obtain ⟨hin, hout⟩ := exec_shl_of_some (rd := rd) ha n
  exact ⟨hin, hout, fun h0 k hk => by rw [inRange_mul_two_pow_iff hk h0, not_le]⟩

/-- Settles O20: the shift is the library's floor division, and shifts compose. -/
theorem shrTakesTheFloor : Obligations.ShrTakesTheFloor := by
  refine ⟨encodedAs_of_rowOf (op := 0x35) rfl fun _ => rfl,
    fun s rd ra n => ⟨fun h => finish_source_of_none h _, fun a ha => ?_⟩⟩
  refine ⟨shiftRight a n.toNat, shiftRight_eq_floor a _, fun i => ?_, fun hr => inRange_shiftRight hr _,
    finish_source_of_some ha _⟩
  rw [shiftRight_eq_ediv, bitOf_ediv_two_pow]

/-- Settles O21: the four bits of `flagsOf`, one by one. -/
theorem tstWritesTheFourFlags : Obligations.TstWritesTheFourFlags := by
  refine ⟨encodedAs_of_rowOf (op := 0x38) rfl fun _ => rfl,
    fun s ra => ⟨fun h => finish_source_of_none h _, fun v hv => ?_⟩⟩
  obtain ⟨hzero, hneg, hodd, hone⟩ := flagsOf_bits v
  exact ⟨flagsOf v, hzero, hneg, hodd, hone, finish_source_of_some hv _⟩

theorem writeSres_bit (s : State) (v : Int) (i : Nat) :
    writeSres s (bit v i).toNat = { s with sres := if bitOf v i then 1 else 0 } := by
  rw [bit_eq_bitOf]
  cases bitOf v i <;> rfl

/-- Settles O22: the model's bit is the statement's, as the number 0 or 1. -/
theorem tbitReadsOneBit : Obligations.TbitReadsOneBit := by
  refine ⟨encodedAs_of_rowOf (op := 0x39) rfl fun _ => rfl,
    fun s ra i => ⟨fun h => finish_source_of_none h _, fun v hv => ?_⟩⟩
  rw [exec, execTbit, finish_source_of_some hv, writeSres_bit]
  rfl

/-- Settles O23: a value in range fits the register, so its bit length is at most `W − 1`. -/
theorem bitlenGivesTheBitLength : Obligations.BitlenGivesTheBitLength :=
  ⟨encodedAs_of_rowOf (op := 0x3A) rfl fun _ => rfl, fun _ _ => ⟨fun h => finish_source_of_none h _,
    fun v hv => ⟨bitlen v, isBitlen_bitlen v, (inRange_iff_of_isBitlen (isBitlen_bitlen v)).1,
      finish_source_of_some hv _⟩⟩⟩

theorem exec_ctz_of_some {s : State} {ra : Reg} {v : Int} (hv : s.regs[ra] = some v) :
    (v ≤ 0 → exec (.ctz ra) s = .next (s.faulted 6)) ∧
    (0 < v → exec (.ctz ra) s = .next { s with sres := BitVec.ofNat 64 (ctz v) }.counted) := by
  rw [exec, execCtz, finish_source_of_some hv]
  exact ⟨fun h => finish_require_of_false h.not_gt _, fun h => finish_require_of_true h _⟩

/-- Settles O24: the four facts about the count follow from `v = 2^k · odd`. -/
theorem ctzCountsTrailingZeros : Obligations.CtzCountsTrailingZeros := by
  refine ⟨encodedAs_of_rowOf (op := 0x3B) rfl fun _ => rfl,
    fun s ra => ⟨fun h => finish_source_of_none h _, fun v hv => ?_⟩⟩
  obtain ⟨hfault, hcount⟩ := exec_ctz_of_some hv
  refine ⟨hfault, fun h0 => ?_⟩
  obtain ⟨m, hm⟩ := exists_odd_ctz h0
  exact ⟨ctz v, Dvd.intro _ hm.symm, two_pow_succ_not_dvd_of_odd_part hm, bitOf_self_of_odd_part hm,
    fun _ => bitOf_lt_of_odd_part hm, hcount h0⟩

end Sys2Proof.Proofs
end

section
/-! The default `BEZOUT` (42_modinv_gcd.md R166): the loop by its two equations, its invariant, and the bounds of the
pair that it returns. -/

namespace Sys2Proof.Proofs
open Sys2Proof Sys2Proof.Machine

/-! ### The loop -/

/-- The loop of the default `BEZOUT`, with as much fuel as it needs. -/
def euclid (r0 r1 s0 s1 t0 t1 : Int) : Int × Int := euclidLoop (r1.natAbs + 1) r0 r1 s0 s1 t0 t1

theorem bezoutDefault_eq_euclid (a b : Int) : bezoutDefault a b = euclid a b 1 0 0 1 := rfl

theorem sub_tdiv_mul (a b : Int) : a - tdiv a b * b = trem a b := by
  rw [trem, mul_comm]

/-- The fuel does not matter while it is above the remainder, which every pass makes smaller. -/
theorem euclidLoop_fuel_eq {m n : Nat} {r0 r1 s0 s1 t0 t1 : Int} (hm : r1.natAbs < m) (hn : r1.natAbs < n) :
    euclidLoop m r0 r1 s0 s1 t0 t1 = euclidLoop n r0 r1 s0 s1 t0 t1 := by
  induction m generalizing n r0 r1 s0 s1 t0 t1 with
  | zero => omega
  | succ m ih =>
    obtain ⟨n, rfl⟩ := Nat.exists_eq_add_of_lt (Nat.zero_lt_of_lt hn)
    rw [Nat.zero_add, euclidLoop, euclidLoop]
    split_ifs with h1
    · rfl
    · rfl
    · have hlt := natAbs_trem_lt r0 h1
      simp only [sub_tdiv_mul]
      exact ih (by omega) (by omega)

theorem euclid_zero (r0 s0 s1 t0 t1 : Int) :
    euclid r0 0 s0 s1 t0 t1 = if r0 < 0 then (-s0, -t0) else (s0, t0) := rfl

theorem euclid_pass {r0 r1 : Int} (h1 : r1 ≠ 0) (s0 s1 t0 t1 : Int) :
    euclid r0 r1 s0 s1 t0 t1 =
      euclid r1 (trem r0 r1) s1 (s0 - tdiv r0 r1 * s1) t1 (t0 - tdiv r0 r1 * t1) := by
  rw [euclid, euclidLoop, if_neg h1]
  simp only [sub_tdiv_mul]
  exact euclidLoop_fuel_eq (natAbs_trem_lt r0 h1) (Nat.lt_succ_self _)

/-! ### One truncated division -/

theorem abs_eq_abs_tdiv_mul_add_abs_trem (a b : Int) : |a| = |tdiv a b| * |b| + |trem a b| := by
  simp only [tdiv_eq_tdiv, trem_eq_tmod, Int.abs_eq_natAbs, Int.natAbs_tdiv, Int.natAbs_tmod]
  exact_mod_cast (Nat.div_add_mod' a.natAbs b.natAbs).symm

theorem abs_trem_lt (a : Int) {b : Int} (hb : b ≠ 0) : |trem a b| < |b| := by
  rw [Int.abs_eq_natAbs, Int.abs_eq_natAbs]
  exact_mod_cast natAbs_trem_lt a hb

theorem trem_eq_zero_or_mul_pos (a b : Int) : trem a b = 0 ∨ 0 < a * trem a b := by
  obtain h0 | hne := eq_or_ne (trem a b) 0
  · exact .inl h0
  · have hsign := (trem_eq_zero_or_sign_eq a b).resolve_left hne
    have ha : a ≠ 0 := by
      rintro rfl
      exact hne (Int.sign_eq_zero_iff_zero.1 hsign)
    rw [← Int.sign_eq_one_iff_pos, Int.sign_mul, hsign, ← Int.sign_mul]
    exact .inr (Int.sign_eq_one_of_pos (mul_self_pos.2 ha))

/-- The quotient has the sign of the product, or is 0. -/
theorem tdiv_mul_mul_nonneg (a b : Int) : 0 ≤ tdiv a b * (a * b) := by
  have h : tdiv a b * (a * b) = (a.natAbs / b.natAbs : Nat) * ((a.sign * a) * (b.sign * b)) := by rw [tdiv]; ring
  rw [h, Int.sign_mul_self, Int.sign_mul_self]
  positivity

theorem tdiv_eq_zero_of_mul_eq_zero {a b : Int} (h : a * b = 0) : tdiv a b = 0 := by
  obtain rfl | rfl := mul_eq_zero.1 h
  · rw [tdiv_eq_tdiv, Int.zero_tdiv]
  · rw [tdiv_eq_tdiv, Int.tdiv_zero]

theorem gcd_trem (a b : Int) : Int.gcd b (trem a b) = Int.gcd a b := by
  rw [trem, Int.gcd_sub_mul_left_right, Int.gcd_comm]

theorem abs_sub_of_mul_nonpos {x y : Int} (h : x * y ≤ 0) : |x - y| = |x| + |y| := by
  rw [sub_eq_add_neg, ← abs_neg y, abs_add_eq_add_abs_iff, ← mul_nonneg_iff, mul_neg]
  exact neg_nonneg.2 h

/-! ### The invariant of the loop -/

/-- What the loop keeps of one pair of coefficients `x0`, `x1` (either the `s` or the `t` of the rule) at the remainders
`r0`, `r1`. The sizes of the coefficients grow as the remainders shrink, at a constant `n`, because the two signs
alternate; after the first pass the remainders fall, so that the last quotient is at least 2. -/
structure CoefficientInvariant (n r0 r1 x0 x1 : Int) : Prop where
  size : |r0| * |x1| + |r1| * |x0| = n
  alternate : r0 * r1 * (x0 * x1) ≤ 0
  falls : r1 ≠ 0 → |x1| ≤ 1 ∨ |r1| < |r0|
  last : r1 = 0 → |x0| ≤ 1 ∨ 2 * |x0| ≤ |x1|

/-- A new coefficient is as large as it can be, since its two parts have opposite signs. -/
theorem CoefficientInvariant.abs_sub_tdiv_mul {n r0 r1 x0 x1 : Int} (h : CoefficientInvariant n r0 r1 x0 x1) :
    |x0 - tdiv r0 r1 * x1| = |x0| + |tdiv r0 r1| * |x1| := by
  rw [← abs_mul]
  apply abs_sub_of_mul_nonpos
  have hq := tdiv_mul_mul_nonneg r0 r1
  obtain h0 | hne := eq_or_ne (r0 * r1) 0
  · simp [tdiv_eq_zero_of_mul_eq_zero h0]
  · have hsq : 0 < (r0 * r1) ^ 2 := by positivity
    have halt := mul_nonpos_of_nonneg_of_nonpos hq h.alternate
    refine nonpos_of_mul_nonpos_right (a := (r0 * r1) ^ 2) ?_ hsq
    calc (r0 * r1) ^ 2 * (x0 * (tdiv r0 r1 * x1))
        = tdiv r0 r1 * (r0 * r1) * (r0 * r1 * (x0 * x1)) := by ring
      _ ≤ 0 := halt

theorem CoefficientInvariant.pass {n r0 r1 x0 x1 : Int} (h : CoefficientInvariant n r0 r1 x0 x1) (h1 : r1 ≠ 0) :
    CoefficientInvariant n r1 (trem r0 r1) x1 (x0 - tdiv r0 r1 * x1) where
  size := by
    rw [h.abs_sub_tdiv_mul, ← h.size, abs_eq_abs_tdiv_mul_add_abs_trem r0 r1]
    ring
  alternate := by
    obtain h2 | h2 := trem_eq_zero_or_mul_pos r0 r1
    · simp [h2]
    · refine nonpos_of_mul_nonpos_right (a := r0 * trem r0 r1) ?_ h2
      have hold := mul_nonpos_of_nonneg_of_nonpos (sq_nonneg (trem r0 r1)) h.alternate
      have hnew := mul_nonneg (tdiv_mul_mul_nonneg r0 r1) (sq_nonneg (trem r0 r1 * x1))
      calc r0 * trem r0 r1 * (r1 * trem r0 r1 * (x1 * (x0 - tdiv r0 r1 * x1)))
          = trem r0 r1 ^ 2 * (r0 * r1 * (x0 * x1)) - tdiv r0 r1 * (r0 * r1) * (trem r0 r1 * x1) ^ 2 := by ring
        _ ≤ 0 := by linarith
  falls _ := .inr (abs_trem_lt r0 h1)
  last h2 := by
    refine (h.falls h1).imp_right fun hlt => ?_
    have hsplit := abs_eq_abs_tdiv_mul_add_abs_trem r0 r1
    have htwo : 2 ≤ |tdiv r0 r1| := by
      rw [h2, abs_zero, add_zero] at hsplit
      by_contra hlt2
      nlinarith [abs_nonneg r1]
    rw [h.abs_sub_tdiv_mul]
    nlinarith [abs_nonneg x0, abs_nonneg x1]

/-- The invariant of the loop of the rule for the operands `a`, `b` (42_modinv_gcd.md R166). -/
structure EuclidInvariant (a b r0 r1 s0 s1 t0 t1 : Int) : Prop where
  combination : a * s0 + b * t0 = r0
  combination' : a * s1 + b * t1 = r1
  gcd_eq : Int.gcd r0 r1 = Int.gcd a b
  left : CoefficientInvariant |b| r0 r1 s0 s1
  right : CoefficientInvariant |a| r0 r1 t0 t1

theorem euclidInvariant_start (a b : Int) : EuclidInvariant a b a b 1 0 0 1 where
  combination := by ring
  combination' := by ring
  gcd_eq := rfl
  left := ⟨by simp, by simp, fun _ => by simp, fun _ => by simp⟩
  right := ⟨by simp, by simp, fun _ => by simp, fun _ => by simp⟩

theorem EuclidInvariant.pass {a b r0 r1 s0 s1 t0 t1 : Int} (h : EuclidInvariant a b r0 r1 s0 s1 t0 t1) (h1 : r1 ≠ 0) :
    EuclidInvariant a b r1 (trem r0 r1) s1 (s0 - tdiv r0 r1 * s1) t1 (t0 - tdiv r0 r1 * t1) where
  combination := h.combination'
  combination' := by
    rw [trem, ← h.combination, ← h.combination']
    ring
  gcd_eq := (gcd_trem r0 r1).trans h.gcd_eq
  left := h.left.pass h1
  right := h.right.pass h1

/-! ### The pair at the end of the loop -/

/-- A Bézout pair of `a` and `b` (R165), as small as R166 says. -/
structure SmallBezoutPair (a b : Int) (p : Int × Int) : Prop where
  law : a * p.1 + b * p.2 = Int.gcd a b
  left : |p.1| ≤ 1 ∨ 2 * (Int.gcd a b : Int) * |p.1| ≤ |b|
  right : |p.2| ≤ 1 ∨ 2 * (Int.gcd a b : Int) * |p.2| ≤ |a|

theorem CoefficientInvariant.bound {n r0 x0 x1 : Int} (h : CoefficientInvariant n r0 0 x0 x1) :
    |x0| ≤ 1 ∨ 2 * |r0| * |x0| ≤ n := by
  refine (h.last rfl).imp_right fun hlast => ?_
  calc 2 * |r0| * |x0| = |r0| * (2 * |x0|) := by ring
    _ ≤ |r0| * |x1| := mul_le_mul_of_nonneg_left hlast (abs_nonneg r0)
    _ = n := by rw [← h.size, abs_zero, zero_mul, add_zero]

theorem EuclidInvariant.smallBezoutPair_end {a b r0 s0 s1 t0 t1 : Int} (h : EuclidInvariant a b r0 0 s0 s1 t0 t1) :
    SmallBezoutPair a b (euclid r0 0 s0 s1 t0 t1) := by
  have hg : (Int.gcd a b : Int) = |r0| := by rw [← h.gcd_eq, Int.gcd_zero_right, Int.abs_eq_natAbs]
  have hleft := h.left.bound
  have hright := h.right.bound
  rw [euclid_zero]
  split_ifs with hneg
  · exact ⟨by rw [hg, abs_of_neg hneg, ← h.combination]; ring, by rwa [hg, abs_neg], by rwa [hg, abs_neg]⟩
  · exact ⟨by rw [hg, abs_of_nonneg (not_lt.1 hneg), ← h.combination], by rwa [hg], by rwa [hg]⟩

/-- The loop ends, since the remainder falls in magnitude, and its invariant gives the pair's law and bounds. -/
theorem EuclidInvariant.smallBezoutPair {a b r0 r1 s0 s1 t0 t1 : Int} (h : EuclidInvariant a b r0 r1 s0 s1 t0 t1) :
    SmallBezoutPair a b (euclid r0 r1 s0 s1 t0 t1) := by
  induction hn : r1.natAbs using Nat.strong_induction_on generalizing r0 r1 s0 s1 t0 t1 with
  | _ n ih =>
    obtain rfl | h1 := eq_or_ne r1 0
    · exact h.smallBezoutPair_end
    · rw [euclid_pass h1]
      exact ih _ (hn ▸ natAbs_trem_lt r0 h1) (h.pass h1) rfl

theorem smallBezoutPair_bezoutDefault (a b : Int) : SmallBezoutPair a b (bezoutDefault a b) :=
  (euclidInvariant_start a b).smallBezoutPair

end Sys2Proof.Proofs
end

section
/-! The commands `MODINV`, `GCD` and `XGCD` (42_modinv_gcd.md R162 to R166). -/

namespace Sys2Proof.Proofs
open Sys2Proof Sys2Proof.Machine

/-! ### The modular inverse -/

/-- A Bézout coefficient of a number coprime to the modulus is an inverse (R160, R168). -/
theorem mul_bezoutDefault_modEq_one {a m : Int} (h : Int.gcd a m = 1) : a * (bezoutDefault a m).1 ≡ 1 [ZMOD m] := by
  have hlaw := (smallBezoutPair_bezoutDefault a m).law
  rw [h, Nat.cast_one] at hlaw
  exact Int.modEq_iff_dvd.2 ⟨(bezoutDefault a m).2, by rw [← hlaw]; ring⟩

/-- The same, with the number and the coefficient reduced, as the command and the datapath compute it. -/
theorem mul_emod_bezoutDefault_modEq_one {a m : Int} (h : Int.gcd a m = 1) :
    a * ((bezoutDefault (a % m) m).1 % m) ≡ 1 [ZMOD m] := calc
  a * ((bezoutDefault (a % m) m).1 % m)
    ≡ a % m * (bezoutDefault (a % m) m).1 [ZMOD m] := (Int.mod_modEq a m).symm.mul (Int.mod_modEq _ m)
  _ ≡ 1 [ZMOD m] := mul_bezoutDefault_modEq_one (by rwa [Int.gcd_emod])

theorem mul_inverseMod_modEq_one {a m : Int} (hm : 0 < m) (h : Int.gcd a m = 1) : a * inverseMod a m ≡ 1 [ZMOD m] := by
  rw [inverseMod, emod_eq_emod, emod_eq_emod, Int.natAbs_of_nonneg hm.le]
  exact mul_emod_bezoutDefault_modEq_one h

theorem inverseMod_bounds (a : Int) {m : Int} (hm : 0 < m) : 0 ≤ inverseMod a m ∧ inverseMod a m < m := by
  have hlo := emod_nonneg (bezoutDefault (emod a m) m).1 hm.ne'
  have hhi := natAbs_emod_lt (bezoutDefault (emod a m) m).1 hm.ne'
  rw [inverseMod]
  omega

/-- Two inverses modulo `m` are congruent, so there is one in `[0, m)` (R160). -/
theorem inverse_unique {a m y z : Int} (hy : a * y ≡ 1 [ZMOD m]) (hz : a * z ≡ 1 [ZMOD m]) (hy0 : 0 ≤ y) (hym : y < m)
    (hz0 : 0 ≤ z) (hzm : z < m) : z = y := by
  have hzy : z ≡ y [ZMOD m] := calc
    z = 1 * z := (one_mul z).symm
    _ ≡ a * y * z [ZMOD m] := hy.symm.mul_right z
    _ = a * z * y := by ring
    _ ≡ 1 * y [ZMOD m] := hz.mul_right y
    _ = y := one_mul y
  rwa [Int.ModEq, Int.emod_eq_of_lt hz0 hzm, Int.emod_eq_of_lt hy0 hym] at hzy

theorem modEq_one_iff_dvd {x m : Int} : x ≡ 1 [ZMOD m] ↔ m ∣ x - 1 := Int.modEq_comm.trans Int.modEq_iff_dvd

theorem exec_modinv_of_some {s : State} {rd ra rb : Reg} {a m : Int} (ha : s.regs[ra] = some a)
    (hm : s.regs[rb] = some m) :
    (m ≤ 0 → exec (.modinv rd ra rb) s = .next (s.faulted 6)) ∧
    (0 < m → Int.gcd a m ≠ 1 → exec (.modinv rd ra rb) s = .next (s.faulted 8)) ∧
    (0 < m → Int.gcd a m = 1 → exec (.modinv rd ra rb) s = .next (s.withReg rd (inverseMod a m)).counted) := by
  have hgcd : gcdInt a m = 1 ↔ Int.gcd a m = 1 := Nat.cast_eq_one
  rw [exec, execModinv, finish_sources_of_some ha hm]
  refine ⟨fun h0 => finish_require_of_false h0.not_gt _, fun h0 h => ?_, fun h0 h => ?_⟩
  · rw [finish_require_of_true h0]
    exact finish_require_of_false (mt hgcd.1 h) _
  · rw [finish_require_of_true h0]
    exact finish_require_of_true (hgcd.2 h) _

/-- Settles O25: the reduced Bézout coefficient is an inverse, and two inverses in `[0, m)` are equal. -/
theorem modinvGivesTheInverse : Obligations.ModinvGivesTheInverse := by
  refine ⟨encodedAs_of_rowOf (op := 0x40) rfl fun _ => rfl,
    fun s rd ra rb => ⟨fun h => finish_sources_of_none h _, fun a m ha hm => ?_⟩⟩
  obtain ⟨hdomain, hnot, hinv⟩ := exec_modinv_of_some (rd := rd) ha hm
  refine ⟨hdomain, hnot, fun h0 h => ?_⟩
  obtain ⟨hlo, hhi⟩ := inverseMod_bounds a h0
  have hone := mul_inverseMod_modEq_one h0 h
  exact ⟨inverseMod a m, ⟨hlo, hhi, modEq_one_iff_dvd.1 hone⟩,
    fun z hz0 hzm hz => inverse_unique hone (modEq_one_iff_dvd.2 hz) hlo hhi hz0 hzm, hinv h0 h⟩

/-! ### The greatest common divisor -/

theorem exec_gcd_of_some {s : State} {rd ra rb : Reg} {a b : Int} (ha : s.regs[ra] = some a) (hb : s.regs[rb] = some b) :
    (InRange s.cfg (Int.gcd a b) → exec (.gcd rd ra rb) s = .next (s.withReg rd (Int.gcd a b)).counted) ∧
    (¬InRange s.cfg (Int.gcd a b) → exec (.gcd rd ra rb) s = .next (s.faulted 10)) :=
  exactBinary_of_some gcdInt ha hb

/-- A divisor of two numbers of magnitude at most `M` is at most `M`, but for that of 0 and 0. -/
theorem gcd_le_of_natAbs_le {a b : Int} {M : Nat} (ha : a.natAbs ≤ M) (hb : b.natAbs ≤ M) : Int.gcd a b ≤ M := by
  obtain rfl | ha0 := eq_or_ne a 0
  · rwa [Int.gcd_zero_left]
  · exact (Nat.le_of_dvd (Int.natAbs_pos.2 ha0) (Int.gcd_dvd_natAbs_left a b)).trans ha

theorem natAbs_le_of_inRange {c : Config} {a : Int} (ha : InRange c a) : a.natAbs ≤ 2 ^ (c.width - 1) := by
  unfold InRange at ha
  omega

/-- The one overflow of `GCD` is `2^(W−1)` (R163). -/
theorem not_inRange_gcd_iff {c : Config} {a b : Int} (ha : InRange c a) (hb : InRange c b) :
    ¬InRange c (Int.gcd a b) ↔ (Int.gcd a b : Int) = 2 ^ (c.width - 1) := by
  have hle : Int.gcd a b ≤ 2 ^ (c.width - 1) := gcd_le_of_natAbs_le (natAbs_le_of_inRange ha) (natAbs_le_of_inRange hb)
  have hcast : (Int.gcd a b : Int) = 2 ^ (c.width - 1) ↔ Int.gcd a b = 2 ^ (c.width - 1) := by norm_cast
  rw [hcast, ← Int.ofNat_eq_natCast, inRange_ofNat_iff]
  omega

/-- The multiples of `2^(W−1)` in range. -/
theorem eq_zero_or_eq_neg_of_dvd {c : Config} {a : Int} (ha : InRange c a) (h : (2 : Int) ^ (c.width - 1) ∣ a) :
    a = 0 ∨ a = -2 ^ (c.width - 1) := by
  have hpos : (0 : Int) < 2 ^ (c.width - 1) := by positivity
  obtain ⟨hlo, hhi⟩ := inRange_iff_two_pow.1 ha
  obtain ⟨k, rfl⟩ := h
  have hk : -1 ≤ k ∧ k < 1 := by constructor <;> nlinarith
  obtain rfl | rfl : k = 0 ∨ k = -1 := by omega
  · exact .inl (mul_zero _)
  · exact .inr (mul_neg_one _)

/-- The three pairs whose divisor is `2^(W−1)` (R163). -/
theorem gcd_eq_two_pow_iff {c : Config} {a b : Int} (ha : InRange c a) (hb : InRange c b) :
    (Int.gcd a b : Int) = 2 ^ (c.width - 1) ↔
      (a = -2 ^ (c.width - 1) ∧ (b = 0 ∨ b = -2 ^ (c.width - 1))) ∨ (a = 0 ∧ b = -2 ^ (c.width - 1)) := by
  have hpos : (0 : Int) < 2 ^ (c.width - 1) := by positivity
  constructor
  · intro h
    obtain rfl | rfl := eq_zero_or_eq_neg_of_dvd ha (h ▸ Int.gcd_dvd_left a b)
    · obtain rfl | rfl := eq_zero_or_eq_neg_of_dvd hb (h ▸ Int.gcd_dvd_right 0 b)
      · exact absurd h (by simp [hpos.ne])
      · exact .inr ⟨rfl, rfl⟩
    · exact .inl ⟨rfl, eq_zero_or_eq_neg_of_dvd hb (h ▸ Int.gcd_dvd_right _ b)⟩
  · rintro (⟨rfl, rfl | rfl⟩ | ⟨rfl, rfl⟩) <;> simp

/-- Settles O26: the library's divisor is the one that every common divisor divides. -/
theorem gcdGivesTheDivisor : Obligations.GcdGivesTheDivisor := by
  refine ⟨encodedAs_of_rowOf (op := 0x41) rfl fun _ => rfl,
    fun s rd ra rb => ⟨fun h => finish_sources_of_none h _, fun a b ha hb => ?_⟩⟩
  obtain ⟨hin, hout⟩ := exec_gcd_of_some (rd := rd) ha hb
  exact ⟨Int.gcd a b, Int.natCast_nonneg _, Int.gcd_dvd_left a b, Int.gcd_dvd_right a b, fun d => Int.dvd_coe_gcd,
    hin, hout, fun hra hrb => ⟨not_inRange_gcd_iff hra hrb,
      (not_inRange_gcd_iff hra hrb).trans (gcd_eq_two_pow_iff hra hrb)⟩⟩

/-! ### The Bézout pair -/

/-- The parameter `BEZOUT` as a function of the configured choice (R165). -/
def bezoutOf : BezoutChoice → Int → Int → Int × Int
  | .euclid => bezoutDefault
  | .lawful => bezoutLawful

theorem bezout_eq_bezoutOf (c : Config) : bezout c = bezoutOf c.bezout := by
  funext a b
  rw [bezout]
  cases c.bezout <;> rfl

/-- Adding a multiple of `(b/g, −a/g)` to a pair keeps its combination. -/
theorem bezoutLawful_law (a b : Int) : a * (bezoutLawful a b).1 + b * (bezoutLawful a b).2 = Int.gcd a b := by
  rw [bezoutLawful]
  split_ifs with h0
  · obtain ⟨rfl, rfl⟩ := h0
    simp
  · have hlaw := (smallBezoutPair_bezoutDefault a b).law
    have hswap : a * (b / gcdInt a b) = b * (a / gcdInt a b) := by
      rw [gcdInt, ← Int.mul_ediv_assoc a (Int.gcd_dvd_right a b), ← Int.mul_ediv_assoc b (Int.gcd_dvd_left a b),
        mul_comm a b]
    linear_combination hlaw + Config.bezoutShift a b * hswap

theorem bezoutOf_law (c : BezoutChoice) (a b : Int) : a * (bezoutOf c a b).1 + b * (bezoutOf c a b).2 = Int.gcd a b := by
  cases c with
  | euclid => exact (smallBezoutPair_bezoutDefault a b).law
  | lawful => exact bezoutLawful_law a b

theorem fieldsOf_re (w : Word) : (fieldsOf w).re = w.extractLsb' 36 4 := by
  refine BitVec.eq_of_getLsbD_eq fun i hi => ?_
  simp only [Fields.re, fieldsOf, BitVec.getLsbD_extractLsb']
  grind

/-- The words of `XGCD` are those of its row that name three destinations (30_encoding.md R98). -/
theorem xgcd_words (w : Word) :
    (w &&& 0xFF00000FFFFFFFFF = 0x4200000000000000 ∧ regAt w 52 ≠ regAt w 40 ∧ regAt w 52 ≠ regAt w 36 ∧
      regAt w 40 ≠ regAt w 36) ↔
    decode w = .ok (.xgcd (regAt w 52) (regAt w 40) (regAt w 36) (regAt w 48) (regAt w 44)) := by
  have hrow := decode_eq_ok_build_iff (op := 0x42) rfl w
  simp only [fieldsOf_re, Instr.WellFormed, Bool.and_eq_true, bne_iff_ne, and_assoc] at hrow
  exact hrow.symm

section
variable {s : State} {rd rc re ra rb : Reg} {a b : Int}

theorem exec_xgcd_of_none (hd : rd ≠ rc ∧ rd ≠ re ∧ rc ≠ re) (h : s.regs[ra] = none ∨ s.regs[rb] = none) :
    exec (.xgcd rd rc re ra rb) s = .next (s.faulted 2) := by
  rw [exec, execXgcd, finish_require_of_true hd]
  exact finish_sources_of_none h _

theorem exec_xgcd_of_some (hd : rd ≠ rc ∧ rd ≠ re ∧ rc ≠ re) (ha : s.regs[ra] = some a) (hb : s.regs[rb] = some b)
    {g u v : Int} (hg : g = Int.gcd a b) (huv : (u, v) = bezoutOf s.cfg.bezout a b) :
    (InRange s.cfg g ∧ InRange s.cfg u ∧ InRange s.cfg v →
      exec (.xgcd rd rc re ra rb) s = .next (((s.withReg rd g).withReg rc u).withReg re v).counted) ∧
    (¬(InRange s.cfg g ∧ InRange s.cfg u ∧ InRange s.cfg v) →
      exec (.xgcd rd rc re ra rb) s = .next (s.faulted 10)) := by
  subst hg
  rw [exec, execXgcd, finish_require_of_true hd, finish_sources_of_some ha hb, bezout_eq_bezoutOf, ← huv]
  exact ⟨fun h => finish_require_of_true h _, fun h => finish_require_of_false h _⟩

end

/-- Settles O27: either choice of `BEZOUT` meets the law, and the command depends on nothing else. -/
theorem xgcdMeetsTheBezoutLaw : Obligations.XgcdMeetsTheBezoutLaw :=
  ⟨xgcd_words, bezoutOf, bezoutOf_law, fun _ _ _ _ _ _ hdc hde hce =>
    ⟨exec_xgcd_of_none ⟨hdc, hde, hce⟩, fun _ _ ha hb _ _ _ hg huv => exec_xgcd_of_some ⟨hdc, hde, hce⟩ ha hb hg huv⟩⟩

/-! ### The default pair in range -/

theorem inRange_of_abs_le_one {c : Config} (hc : c.Legal) {x : Int} (h : |x| ≤ 1) : InRange c x := by
  have hw : 1 ≤ c.width - 1 := by simp only [Config.width, limbBits]; omega
  have hpow : 2 ^ 1 ≤ 2 ^ (c.width - 1) := Nat.pow_le_pow_right (by decide) hw
  obtain ⟨hlo, hhi⟩ := abs_le.1 h
  unfold InRange
  omega

/-- A coefficient within its bound is at most 1, or smaller in magnitude than an operand. -/
theorem inRange_of_bound {c : Config} (hc : c.Legal) {g x y : Int} (hg : 0 < g) (hy : InRange c y)
    (h : |x| ≤ 1 ∨ 2 * g * |x| ≤ |y|) : InRange c x := by
  obtain h | h := h
  · exact inRange_of_abs_le_one hc h
  · obtain rfl | hx := eq_or_ne x 0
    · exact inRange_of_abs_le_one hc (by simp)
    · have hpos := abs_pos.2 hx
      have hlt : |x| < |y| := by nlinarith
      rw [Int.abs_eq_natAbs, Int.abs_eq_natAbs] at hlt
      exact inRange_of_natAbs_lt hy (by exact_mod_cast hlt)

theorem inRange_bezoutDefault {c : Config} (hc : c.Legal) {a b : Int} (ha : InRange c a) (hb : InRange c b) :
    InRange c (bezoutDefault a b).1 ∧ InRange c (bezoutDefault a b).2 := by
  obtain h0 | hpos := (Int.gcd a b).eq_zero_or_pos
  · obtain ⟨rfl, rfl⟩ := Int.gcd_eq_zero_iff.1 h0
    exact ⟨inRange_of_abs_le_one hc (by decide), inRange_of_abs_le_one hc (by decide)⟩
  · have hpair := smallBezoutPair_bezoutDefault a b
    have hg : (0 : Int) < Int.gcd a b := by exact_mod_cast hpos
    exact ⟨inRange_of_bound hc hg hb hpair.left, inRange_of_bound hc hg ha hpair.right⟩

/-- Settles O28: the model's loop with its own fuel has the rule's two equations, and its pair is bounded by the operands. -/
theorem xgcdWithDefaultBezoutCompletes : Obligations.XgcdWithDefaultBezoutCompletes := by
  refine ⟨euclid, euclid_zero, ?_, fun a b g u v hg huv => ?_⟩
  · rintro r0 r1 s0 s1 t0 t1 q h1 rfl
    rw [euclid_pass h1, ← sub_tdiv_mul]
    rfl
  · obtain ⟨-, hleft, hright⟩ := smallBezoutPair_bezoutDefault a b
    rw [bezoutDefault_eq_euclid, ← huv, ← hg] at hleft hright
    refine ⟨fun _ => ⟨hleft, hright⟩, fun s rd rc re ra rb heuclid hc hdc hde hce ha hb hra hrb hrg => ?_⟩
    obtain ⟨hu, hv⟩ := inRange_bezoutDefault hc hra hrb
    rw [bezoutDefault_eq_euclid, ← huv] at hu hv
    exact (exec_xgcd_of_some ⟨hdc, hde, hce⟩ ha hb hg (by rw [heuclid]; exact huv)).1 ⟨hrg, hu, hv⟩

end Sys2Proof.Proofs
end

section
/-! The reference datapath of `MODINV` (42_modinv_gcd.md R167 to R170): Newton lifting, Garner's recombination, and the
split that combines them. -/

namespace Sys2Proof.Proofs
open Sys2Proof Sys2Proof.Machine

/-! ### Newton lifting -/

/-- One pass of Newton's iteration squares the error, so it doubles the number of correct low bits (R169). -/
theorem newton_modEq_one {a y n : Int} (h : a * y ≡ 1 [ZMOD n]) : a * (y * (2 - a * y)) ≡ 1 [ZMOD n * n] := by
  have hdvd := modEq_one_iff_dvd.1 h
  refine modEq_one_iff_dvd.2 ((dvd_neg.2 (mul_dvd_mul hdvd hdvd)).trans (dvd_of_eq ?_))
  ring

/-- The loop doubles the modulus `2^k` of the inverse up to `2^t`, if the fuel lets it. -/
theorem mul_inv2Loop_modEq_one {fuel t k : Nat} {a y : Int} (hfuel : t ≤ 2 ^ fuel * k)
    (h : a * y ≡ 1 [ZMOD 2 ^ min k t]) : a * inv2Loop fuel a t k y ≡ 1 [ZMOD 2 ^ t] := by
  induction fuel generalizing k y with
  | zero =>
    rw [pow_zero, one_mul] at hfuel
    rwa [min_eq_right hfuel] at h
  | succ fuel ih =>
    rw [inv2Loop]
    split_ifs with hlt
    · refine ih (by rw [pow_succ] at hfuel; linarith) ?_
      rw [min_eq_left hlt.le] at h
      have hnewton := newton_modEq_one h
      rw [← pow_add, ← two_mul] at hnewton
      push_cast
      calc a * (y * (2 - a * y) % 2 ^ min (2 * k) t)
          ≡ a * (y * (2 - a * y)) [ZMOD 2 ^ min (2 * k) t] := (Int.mod_modEq _ _).mul_left a
        _ ≡ 1 [ZMOD 2 ^ min (2 * k) t] := hnewton.of_dvd (pow_dvd_pow 2 (min_le_left _ _))
    · rwa [min_eq_right (not_lt.1 hlt)] at h

theorem natCast_inv2 (a t : Nat) : (inv2 a t : Int) = inv2Loop t a t 1 1 % 2 ^ t := by
  rw [inv2, Int.toNat_of_nonneg (Int.emod_nonneg _ (by positivity))]
  push_cast
  rfl

theorem inv2_lt (a t : Nat) : inv2 a t < 2 ^ t := by
  have h := Int.emod_lt_of_pos (inv2Loop t a t 1 1) (b := 2 ^ t) (by positivity)
  rw [← natCast_inv2] at h
  exact_mod_cast h

theorem mul_inv2_modEq_one {a t : Nat} (ha : a % 2 = 1) : (a : Int) * inv2 a t ≡ 1 [ZMOD 2 ^ t] := by
  have hstart : (a : Int) * 1 ≡ 1 [ZMOD 2 ^ min 1 t] := by
    have hodd : (a : Int) * 1 ≡ 1 [ZMOD 2 ^ 1] := by rw [mul_one, Int.ModEq]; omega
    exact hodd.of_dvd (pow_dvd_pow 2 (min_le_left _ _))
  rw [natCast_inv2]
  calc (a : Int) * (inv2Loop t a t 1 1 % 2 ^ t)
      ≡ a * inv2Loop t a t 1 1 [ZMOD 2 ^ t] := (Int.mod_modEq _ _).mul_left _
    _ ≡ 1 [ZMOD 2 ^ t] := mul_inv2Loop_modEq_one (by rw [mul_one]; exact Nat.lt_two_pow_self.le) hstart

/-! ### Garner's recombination -/

/-- The recombined number is `x1` and the multiple of `m1` that makes up the difference to `x2` modulo `2^t` (R170); the
two shortcuts are of this form too. -/
theorem crt_eq_add_mul {x1 m1 x2 t : Nat} (hodd : m1 % 2 = 1) (h1 : x1 < m1) (h2 : x2 < 2 ^ t) :
    ∃ h < 2 ^ t, crt x1 m1 x2 t = x1 + m1 * h ∧ (m1 : Int) * h ≡ x2 - x1 [ZMOD 2 ^ t] := by
  rw [crt]
  split_ifs with ht hm
  · subst ht
    exact ⟨0, by simp, by simp, Int.modEq_one⟩
  · subst hm
    obtain rfl : x1 = 0 := by omega
    exact ⟨x2, h2, by ring, by simp⟩
  · have hlo := Int.emod_nonneg (((x2 : Int) - x1) * inv2 (m1 % 2 ^ t) t) (b := (2 ^ t : Nat)) (by positivity)
    have hhi := Int.emod_lt_of_pos (((x2 : Int) - x1) * inv2 (m1 % 2 ^ t) t) (b := (2 ^ t : Nat)) (by positivity)
    refine ⟨_, by omega, rfl, ?_⟩
    have hodd' : m1 % 2 ^ t % 2 = 1 := by rwa [Nat.mod_mod_of_dvd _ (dvd_pow_self 2 ht)]
    have hinv := mul_inv2_modEq_one (t := t) hodd'
    rw [Int.toNat_of_nonneg hlo]
    push_cast at hinv ⊢
    calc (m1 : Int) * ((x2 - x1) * inv2 (m1 % 2 ^ t) t % 2 ^ t)
        ≡ m1 % 2 ^ t * ((x2 - x1) * inv2 (m1 % 2 ^ t) t) [ZMOD 2 ^ t] :=
          (Int.mod_modEq _ _).symm.mul (Int.mod_modEq _ _)
      _ = (x2 - x1) * (m1 % 2 ^ t * inv2 (m1 % 2 ^ t) t) := by ring
      _ ≡ (x2 - x1) * 1 [ZMOD 2 ^ t] := hinv.mul_left _
      _ = x2 - x1 := mul_one _

/-- What the rule says of the recombined number: it is below the product of the moduli and has the two residues. -/
theorem crt_spec {x1 m1 x2 t : Nat} (hodd : m1 % 2 = 1) (h1 : x1 < m1) (h2 : x2 < 2 ^ t) :
    crt x1 m1 x2 t < m1 * 2 ^ t ∧ (crt x1 m1 x2 t : Int) ≡ x1 [ZMOD m1] ∧ (crt x1 m1 x2 t : Int) ≡ x2 [ZMOD 2 ^ t] := by
  obtain ⟨h, hlt, hcrt, hmod⟩ := crt_eq_add_mul hodd h1 h2
  rw [hcrt]
  push_cast
  refine ⟨?_, Int.modEq_iff_dvd.2 ⟨-h, by ring⟩, ?_⟩
  · calc x1 + m1 * h < m1 * (h + 1) := by linarith
      _ ≤ m1 * 2 ^ t := Nat.mul_le_mul_left m1 hlt
  · have hsum := hmod.add_left x1
    rwa [add_sub_cancel] at hsum

/-! ### The split -/

/-- `x1` of R167: the inverse modulo the odd part, or 0 where there is none to take. -/
def oddPartInverse (a : Int) (m1 : Nat) : Nat := if 1 < m1 then inverseOdd (a % (m1 : Int)).toNat m1 else 0

/-- `x2` of R167: the inverse modulo the power of two, or 0 where there is none to take. -/
def evenPartInverse (a : Int) (t : Nat) : Nat := if 0 < t then inv2 (a % ((2 ^ t : Nat) : Int)).toNat t else 0

theorem inverseDatapath_eq_crt {m : Nat} (hm : m ≠ 1) (a : Int) :
    inverseDatapath a m =
      crt (oddPartInverse a (m / 2 ^ ctz m)) (m / 2 ^ ctz m) (evenPartInverse a (ctz m)) (ctz m) := by
  rw [inverseDatapath, if_neg hm]
  rfl

theorem natCast_toNat_emod (a : Int) {n : Nat} (hn : 0 < n) : ((a % (n : Int)).toNat : Int) = a % n :=
  Int.toNat_of_nonneg (Int.emod_nonneg a (by omega))

theorem oddPartInverse_spec {a : Int} {m1 : Nat} (hpos : 0 < m1) (h : Int.gcd a m1 = 1) :
    oddPartInverse a m1 < m1 ∧ a * oddPartInverse a m1 ≡ 1 [ZMOD m1] := by
  rw [oddPartInverse]
  split_ifs with hone
  · have hcast := natCast_toNat_emod (bezoutDefault (a % (m1 : Int)).toNat m1).1 hpos
    have hlt := Int.emod_lt_of_pos (bezoutDefault (a % (m1 : Int)).toNat m1).1 (b := m1) (by omega)
    rw [inverseOdd]
    refine ⟨by omega, ?_⟩
    rw [hcast, natCast_toNat_emod a hpos]
    exact mul_emod_bezoutDefault_modEq_one h
  · obtain rfl : m1 = 1 := by omega
    exact ⟨Nat.one_pos, by rw [Nat.cast_one]; exact Int.modEq_one⟩

theorem evenPartInverse_spec {a : Int} {t : Nat} (h : 0 < t → a % 2 = 1) :
    evenPartInverse a t < 2 ^ t ∧ a * evenPartInverse a t ≡ 1 [ZMOD 2 ^ t] := by
  rw [evenPartInverse]
  split_ifs with ht
  · refine ⟨inv2_lt _ t, ?_⟩
    have hcast := natCast_toNat_emod a (Nat.two_pow_pos t)
    have hodd : (a % ((2 ^ t : Nat) : Int)).toNat % 2 = 1 := by
      have hmod := Int.emod_emod_of_dvd a (Int.natCast_dvd_natCast.2 (dvd_pow_self 2 ht.ne'))
      rw [← hcast, Nat.cast_ofNat, h ht] at hmod
      omega
    have hinv := mul_inv2_modEq_one (t := t) hodd
    rw [hcast] at hinv
    push_cast at hinv ⊢
    exact ((Int.mod_modEq a _).symm.mul_right _).trans hinv
  · obtain rfl : t = 0 := by omega
    exact ⟨Nat.one_pos, by rw [pow_zero]; exact Int.modEq_one⟩

/-- The recombination of the two inverses is an inverse modulo the product, since the moduli are coprime. -/
theorem crt_partInverses_spec {a : Int} {m1 t : Nat} (hodd : m1 % 2 = 1) (h : Int.gcd a (m1 * 2 ^ t) = 1) :
    crt (oddPartInverse a m1) m1 (evenPartInverse a t) t < m1 * 2 ^ t ∧
      a * crt (oddPartInverse a m1) m1 (evenPartInverse a t) t ≡ 1 [ZMOD m1 * 2 ^ t] := by
  obtain ⟨hco1, hco2⟩ := IsCoprime.mul_right_iff.1 (Int.isCoprime_iff_gcd_eq_one.2 h)
  have ha (ht : 0 < t) : a % 2 = 1 := Int.odd_iff.1 (Int.isCoprime_two_right.1 ((IsCoprime.pow_right_iff ht).1 hco2))
  obtain ⟨hlt1, hinv1⟩ := oddPartInverse_spec (by omega) (Int.isCoprime_iff_gcd_eq_one.1 hco1)
  obtain ⟨hlt2, hinv2⟩ := evenPartInverse_spec ha
  obtain ⟨hlt, hmod1, hmod2⟩ := crt_spec hodd hlt1 hlt2
  have hcoprime : (m1 : Int).natAbs.Coprime ((2 : Int) ^ t).natAbs := by
    rw [Int.natAbs_natCast, Int.natAbs_pow]
    exact (Nat.coprime_two_right.2 (Nat.odd_iff.2 hodd)).pow_right t
  exact ⟨hlt, (Int.modEq_and_modEq_iff_modEq_mul hcoprime).1
    ⟨(hmod1.mul_left a).trans hinv1, (hmod2.mul_left a).trans hinv2⟩⟩

/-- The split of R167: an odd part and a power of two. -/
theorem split_ctz {m : Nat} (hm : 0 < m) : m / 2 ^ ctz m % 2 = 1 ∧ m / 2 ^ ctz m * 2 ^ ctz m = m := by
  obtain ⟨k, hk⟩ := exists_odd_ctz (v := m) (by omega)
  have hdvd : 2 ^ ctz m ∣ m := by exact_mod_cast Dvd.intro _ hk.symm
  have hquot : (m : Int) = 2 ^ ctz m * (m / 2 ^ ctz m : Nat) := by exact_mod_cast (Nat.mul_div_cancel' hdvd).symm
  have hodd := mul_left_cancel₀ (by positivity) (hquot.symm.trans hk)
  exact ⟨by omega, Nat.div_mul_cancel hdvd⟩

theorem inverseDatapath_spec {a : Int} {m : Nat} (hm : 0 < m) (h : Int.gcd a m = 1) :
    inverseDatapath a m < m ∧ a * inverseDatapath a m ≡ 1 [ZMOD m] := by
  obtain rfl | hne := eq_or_ne m 1
  · exact ⟨Nat.one_pos, Int.modEq_one⟩
  · obtain ⟨hodd, hsplit⟩ := split_ctz hm
    have hcast : ((m / 2 ^ ctz m : Nat) : Int) * 2 ^ ctz m = m := by exact_mod_cast hsplit
    have hcrt := crt_partInverses_spec (a := a) hodd (hcast.symm ▸ h)
    rwa [hcast, hsplit, ← inverseDatapath_eq_crt hne] at hcrt

/-- Settles O46: the two residues are those of an inverse, and the moduli are coprime. -/
theorem inverseDatapathAgrees : Obligations.InverseDatapathAgrees := by
  intro a m hm h
  obtain ⟨hlt, hone⟩ := inverseDatapath_spec hm h
  exact ⟨hlt, modEq_one_iff_dvd.1 hone⟩

end Sys2Proof.Proofs
end

section
/-! The modular power of `MODPOW` (43_modpow.md R180, R182): binary exponentiation computes the power, and a negative
exponent is one of the inverse. -/

namespace Sys2Proof.Proofs
open Sys2Proof Sys2Proof.Machine

/-! ### Binary exponentiation -/

/-- One step of the scan doubles the scanned exponent and adds its next bit. -/
theorem pow_div_two_pow_step (b e k : Nat) :
    b ^ (e / 2 ^ (k + 1)) * b ^ (e / 2 ^ (k + 1)) * (if e.testBit k then b else 1) = b ^ (e / 2 ^ k) := by
  have hhalf : e / 2 ^ (k + 1) = e / 2 ^ k / 2 := by rw [pow_succ, Nat.div_div_eq_div_mul]
  have hbit : e.testBit k = decide (e / 2 ^ k % 2 = 1) := Nat.testBit_eq_decide_div_mod_eq
  rw [← pow_add, hhalf, hbit]
  split_ifs with h
  · rw [← pow_succ]
    congr 1
    have hone := of_decide_eq_true h
    omega
  · rw [mul_one]
    congr 1
    have hzero := of_decide_eq_false (Bool.eq_false_of_not_eq_true h)
    omega

/-- Whatever form the numbers are kept in, a product that respects the form makes the scan a power: before bit `k − 1`
is read, the accumulator stands for `b^⌊e / 2^k⌋`. -/
theorem scanExponent_form {mul : Nat → Nat → Nat} {form : Nat → Nat}
    (hmul : ∀ x y, mul (form x) (form y) = form (x * y)) (b e k : Nat) :
    scanExponent mul (form b) e k (form (b ^ (e / 2 ^ k))) = form (b ^ e) := by
  induction k with
  | zero => rw [scanExponent, pow_zero, Nat.div_one]
  | succ k ih =>
    have hstep := pow_div_two_pow_step b e k
    rw [scanExponent, hmul, ← ih]
    congr 1
    split_ifs at hstep ⊢
    · rw [hmul, hstep]
    · rw [← hstep, mul_one]

theorem binaryPower_form {mul : Nat → Nat → Nat} {form : Nat → Nat}
    (hmul : ∀ x y, mul (form x) (form y) = form (x * y)) (b e : Nat) :
    binaryPower mul (form 1) (form b) e = form (b ^ e) := by
  have h := scanExponent_form hmul b e (bitlenNat e)
  rwa [Nat.div_eq_of_lt (lt_two_pow_bitlenNat e), pow_zero] at h

theorem powerMod_eq (b e M : Nat) : powerMod b e M = b ^ e % M :=
  binaryPower_form (form := (· % M)) (fun x y => (Nat.mul_mod x y M).symm) b e

/-! ### The modular power -/

theorem natCast_powerMod {y : Int} (hy : 0 ≤ y) (n M : Nat) : (powerMod y.toNat n M : Int) = y ^ n % M := by
  rw [powerMod_eq]
  push_cast
  rw [Int.toNat_of_nonneg hy]

/-- The base that is raised to `|e|`: the inverse of `a` for a negative exponent (R180). -/
def powerBase (a e m : Int) : Int := if e < 0 then inverseMod a m.natAbs else a

/-- The cases of R180 are one: a power of the base, reduced; modulo 1 every number is 0. -/
theorem mpow_eq_emod (a e : Int) {m : Int} (hm : m ≠ 0) :
    mpow a e m = powerBase a e m ^ e.natAbs % (m.natAbs : Int) := by
  have hM : (0 : Int) < m.natAbs := Int.natCast_pos.2 (Int.natAbs_pos.2 hm)
  have hone (x : Int) (h : m.natAbs = 1) : 0 = x % (m.natAbs : Int) := by rw [h, Nat.cast_one, Int.emod_one]
  simp only [mpow, powerBase]
  obtain he | he := lt_or_ge e 0
  · rw [if_neg he.not_ge, if_pos he, natCast_powerMod (inverseMod_bounds a hM).1, show (-e).toNat = e.natAbs by omega]
    exact ite_eq_right_iff.2 (hone _)
  · have hbase : (a % m.natAbs) ^ e.natAbs % (m.natAbs : Int) = a ^ e.natAbs % m.natAbs := (Int.mod_modEq a _).pow _
    rw [if_pos he, if_neg he.not_gt, natCast_powerMod (emod_nonneg a hM.ne'), emod_eq_emod, Int.natAbs_natCast,
      show e.toNat = e.natAbs by omega, hbase]
    exact ite_eq_right_iff.2 (hone _)

theorem mpow_bounds (a e : Int) {m : Int} (hm : m ≠ 0) : 0 ≤ mpow a e m ∧ mpow a e m < m.natAbs := by
  rw [mpow_eq_emod a e hm]
  exact ⟨Int.emod_nonneg _ (by omega), Int.emod_lt_of_pos _ (by omega)⟩

theorem gcd_natCast_natAbs (a m : Int) : Int.gcd a m.natAbs = Int.gcd a m := by
  rw [Int.gcd_def, Int.gcd_def, Int.natAbs_natCast]

/-- A number that is an inverse in `[0, |m|)` is the base of a negative power. -/
theorem powerBase_eq_of_inverse {a e m y : Int} (hm : m ≠ 0) (he : e < 0) (hgcd : Int.gcd a m = 1) (hy0 : 0 ≤ y)
    (hym : y < m.natAbs) (hy : a * y ≡ 1 [ZMOD m.natAbs]) : powerBase a e m = y := by
  have hM : (0 : Int) < m.natAbs := Int.natCast_pos.2 (Int.natAbs_pos.2 hm)
  have hgcd' : Int.gcd a m.natAbs = 1 := (gcd_natCast_natAbs a m).trans hgcd
  obtain ⟨hlo, hhi⟩ := inverseMod_bounds a hM
  rw [powerBase, if_pos he]
  exact inverse_unique hy (mul_inverseMod_modEq_one hM hgcd') hy0 hym hlo hhi

/-! ### The command -/

section
variable {s : State} {rd ra rb rc : Reg} {a e m : Int}

theorem exec_modpow_of_none (h : s.regs[ra] = none ∨ s.regs[rb] = none ∨ s.regs[rc] = none) :
    exec (.modpow rd ra rb rc) s = .next (s.faulted 2) := by
  rw [exec, execModpow]
  cases ha : s.regs[ra] with
  | none => exact finish_source_of_none ha _
  | some a =>
    have hbc := h.resolve_left (by simp [ha])
    rw [finish_source_of_some ha]
    exact finish_sources_of_none hbc _

theorem exec_modpow_of_some (ha : s.regs[ra] = some a) (he : s.regs[rb] = some e) (hm : s.regs[rc] = some m) :
    (m = 0 → exec (.modpow rd ra rb rc) s = .next (s.faulted 5)) ∧
    (m ≠ 0 → ¬(m.natAbs = 1 ∨ 0 ≤ e ∨ Int.gcd a m = 1) → exec (.modpow rd ra rb rc) s = .next (s.faulted 8)) ∧
    (m ≠ 0 → (m.natAbs = 1 ∨ 0 ≤ e ∨ Int.gcd a m = 1) →
      exec (.modpow rd ra rb rc) s = .next (s.withReg rd (mpow a e m)).counted) := by
  have hgcd : gcdInt a m = 1 ↔ Int.gcd a m = 1 := Nat.cast_eq_one
  rw [exec, execModpow, finish_source_of_some ha, finish_sources_of_some he hm, ← hgcd]
  refine ⟨fun h0 => finish_require_of_false (not_not.2 h0) _, fun h0 h => ?_, fun h0 h => ?_⟩
  · rw [finish_require_of_true h0]
    exact finish_require_of_false h _
  · rw [finish_require_of_true h0]
    exact finish_require_of_true h _

end

/-- Settles O29: the scan computes the power, and the inverse in `[0, |m|)` is unique. -/
theorem modpowGivesTheModularPower : Obligations.ModpowGivesTheModularPower := by
  refine ⟨encodedAs_of_rowOf (op := 0x43) rfl fun _ => rfl,
    fun s rd ra rb rc => ⟨exec_modpow_of_none, fun a e m ha he hm => ?_⟩⟩
  obtain ⟨hzero, hnot, hpow⟩ := exec_modpow_of_some (rd := rd) ha he hm
  refine ⟨hzero, fun h1 hneg hg => hnot (by omega) (by omega), fun h0 hok => ?_⟩
  obtain ⟨hlo, hhi⟩ := mpow_bounds a e h0
  refine ⟨mpow a e m, hlo, hhi, fun hpos => ?_, fun hneg y hy0 hym hy => ?_,
    fun hr => inRange_of_natAbs_lt hr (natAbs_mpow_lt a e h0), hpow h0 hok⟩
  · rw [mpow_eq_emod a e h0, powerBase, if_neg hpos.not_gt, show e.toNat = e.natAbs by omega]
  · have hinv : a * y ≡ 1 [ZMOD m.natAbs] := modEq_one_iff_dvd.2 (Int.natAbs_dvd.2 hy)
    have hgcd : Int.gcd a m = 1 := by
      obtain h1 | hpos | hg := hok
      · rw [← gcd_natCast_natAbs, h1, Nat.cast_one, Int.gcd_one_right]
      · omega
      · exact hg
    rw [mpow_eq_emod a e h0, powerBase_eq_of_inverse h0 hneg hgcd hy0 hym hinv, show (-e).toNat = e.natAbs by omega]

end Sys2Proof.Proofs
end

section
/-! Montgomery reduction (43_modpow.md R187 to R189): the word inverse, the passes of `REDC`, and the product in
Montgomery form. -/

namespace Sys2Proof.Proofs
open Sys2Proof Sys2Proof.Machine

/-! ### The word inverse -/

/-- A Newton pass on a word squares the error. -/
theorem one_sub_mul_newtonWord (n y : Word) : 1 - n * newtonWord n y = (1 - n * y) ^ 2 := by
  unfold newtonWord
  ring

/-- The error of the first guess, `n` itself, is a multiple of 4 for odd `n`. -/
theorem exists_one_sub_sq_eq_four_mul {m : Nat} (hm : m % 2 = 1) :
    ∃ c : Word, 1 - BitVec.ofNat 64 m * BitVec.ofNat 64 m = 4 * c := by
  have hhalf : (BitVec.ofNat 64 m : Word) = 1 + 2 * BitVec.ofNat 64 (m / 2) := by
    conv_lhs => rw [← Nat.mod_add_div m 2, hm]
    simp [BitVec.ofNat_add, BitVec.ofNat_mul]
  refine ⟨-(BitVec.ofNat 64 (m / 2) * (1 + BitVec.ofNat 64 (m / 2))), ?_⟩
  rw [hhalf]
  ring

/-- Five passes take the error to a multiple of `4^32 = 2^64`, which is 0 on a word. -/
theorem mul_newtonWord_five {n c : Word} (h : 1 - n * n = 4 * c) :
    n * newtonWord n (newtonWord n (newtonWord n (newtonWord n (newtonWord n n)))) = 1 := by
  have hpow : (4 : Word) ^ 32 = 0 := by decide
  refine (sub_eq_zero.1 ?_).symm
  simp only [one_sub_mul_newtonWord, ← pow_mul, h]
  rw [mul_pow, hpow, zero_mul]

theorem mul_montWordInverse {m : Nat} (hm : m % 2 = 1) : (m * montWordInverse m + 1) % 2 ^ 64 = 0 := by
  obtain ⟨c, hc⟩ := exists_one_sub_sq_eq_four_mul hm
  have hword : BitVec.ofNat 64 (m * montWordInverse m + 1) = 0 := by
    rw [montWordInverse, BitVec.ofNat_add, BitVec.ofNat_mul, BitVec.ofNat_toNat, BitVec.setWidth_eq, mul_neg,
      mul_newtonWord_five hc]
    rfl
  rw [← BitVec.toNat_ofNat, hword]
  rfl

theorem montWordInverse_lt (m : Nat) : montWordInverse m < 2 ^ 64 := BitVec.isLt _

/-! ### The passes -/

theorem lt_montR (m : Nat) : m < montR m :=
  (lt_two_pow_bitlenNat m).trans_le (Nat.pow_le_pow_right two_pos (by rw [montLimbs]; omega))

/-- A pass divides exactly: the multiple of the modulus it adds clears the low word (R188). -/
theorem redcPass_dvd {m m0 : Nat} (h : (m * m0 + 1) % 2 ^ 64 = 0) (T : Nat) :
    2 ^ 64 ∣ T + T % 2 ^ 64 * m0 % 2 ^ 64 * m := by
  have hmod : T + T % 2 ^ 64 * m0 % 2 ^ 64 * m ≡ T * (m * m0 + 1) [MOD 2 ^ 64] := calc
    T + T % 2 ^ 64 * m0 % 2 ^ 64 * m ≡ T + T * m0 * m [MOD 2 ^ 64] :=
      (((Nat.mod_modEq _ _).trans ((Nat.mod_modEq T _).mul_right m0)).mul_right m).add_left T
    _ = T * (m * m0 + 1) := by ring
  exact (hmod.dvd_iff dvd_rfl).2 ((Nat.dvd_of_mod_eq_zero h).mul_left T)

/-- The passes add a multiple of the modulus below `2^(64·k)` and divide by `2^(64·k)`. -/
theorem redcLoop_mul_pow {m m0 : Nat} (h : (m * m0 + 1) % 2 ^ 64 = 0) (k T : Nat) :
    ∃ U < 2 ^ (64 * k), redcLoop m m0 k T * 2 ^ (64 * k) = T + U * m := by
  induction k generalizing T with
  | zero => exact ⟨0, Nat.one_pos, by simp [redcLoop]⟩
  | succ k ih =>
    have hexact := Nat.div_mul_cancel (redcPass_dvd h T)
    have hword : T % 2 ^ 64 * m0 % 2 ^ 64 < 2 ^ 64 := Nat.mod_lt _ (by positivity)
    rw [redcLoop]
    generalize T % 2 ^ 64 * m0 % 2 ^ 64 = u at hexact hword ⊢
    obtain ⟨U, hU, hloop⟩ := ih ((T + u * m) / 2 ^ 64)
    have hpow : 2 ^ (64 * (k + 1)) = 2 ^ (64 * k) * 2 ^ 64 := by rw [Nat.mul_succ, pow_add]
    refine ⟨u + U * 2 ^ 64, by rw [hpow]; linarith, ?_⟩
    rw [hpow, ← mul_assoc, hloop, add_mul, hexact]
    ring

theorem redc_spec {m T : Nat} (hm : m % 2 = 1) (hT : T < m * montR m) :
    redc m T < m ∧ redc m T * montR m ≡ T [MOD m] := by
  obtain ⟨U, hU, hloop⟩ := redcLoop_mul_pow (mul_montWordInverse hm) (montLimbs m) T
  rw [redc]
  generalize redcLoop m (montWordInverse m) (montLimbs m) T = T' at hloop ⊢
  change T' * montR m = T + U * m at hloop
  change U < montR m at hU
  have hlt : T' < 2 * m := by nlinarith
  have hmod : T' * montR m ≡ T [MOD m] := by
    rw [hloop]
    exact Nat.add_mul_modulus_modEq_iff.2 rfl
  split_ifs with hge
  · have hsub : T' - m ≡ T' [MOD m] := (Nat.sub_modulus_modEq_iff hge).2 rfl
    exact ⟨by omega, (hsub.mul_right _).trans hmod⟩
  · exact ⟨by omega, hmod⟩

/-- Settles O45: each pass adds a multiple of the modulus and divides exactly. -/
theorem montgomeryReductionIsCorrect : Obligations.MontgomeryReductionIsCorrect :=
  fun m _ hodd _ => ⟨lt_montR m, montWordInverse_lt m, mul_montWordInverse hodd, redc_spec hodd⟩

/-! ### Montgomery form -/

/-- The Montgomery form of a number (R189). -/
def montForm (m x : Nat) : Nat := x * montR m % m

theorem montForm_lt {m : Nat} (hm : 0 < m) (x : Nat) : montForm m x < m := Nat.mod_lt _ hm

theorem coprime_two_pow {m : Nat} (hm : m % 2 = 1) (k : Nat) : m.Coprime (2 ^ k) :=
  (Nat.coprime_two_right.2 (Nat.odd_iff.2 hm)).pow_right k

/-- `REDC` undoes one factor `R`, since `R` and the odd modulus are coprime. -/
theorem redc_eq_mod {m T z : Nat} (hm : m % 2 = 1) (hT : T < m * montR m) (h : T ≡ z * montR m [MOD m]) :
    redc m T = z % m := by
  obtain ⟨hlt, hmod⟩ := redc_spec hm hT
  have hz : redc m T ≡ z [MOD m] := Nat.ModEq.cancel_right_of_coprime (coprime_two_pow hm _) (hmod.trans h)
  rwa [Nat.ModEq, Nat.mod_eq_of_lt hlt] at hz

/-- A product of residues is in the domain of `REDC`. -/
theorem mul_lt_mul_montR {m x y : Nat} (hx : x < m) (hy : y < m) : x * y < m * montR m :=
  Nat.mul_lt_mul'' hx (hy.trans (lt_montR m))

section
variable {m : Nat} (hm : m % 2 = 1)
include hm

theorem montMul_montForm (x y : Nat) : montMul m (montForm m x) (montForm m y) = montForm m (x * y) := by
  have hpos : 0 < m := by omega
  refine redc_eq_mod hm (mul_lt_mul_montR (montForm_lt hpos x) (montForm_lt hpos y)) ?_
  calc montForm m x * montForm m y ≡ x * montR m * (y * montR m) [MOD m] := (Nat.mod_modEq _ m).mul (Nat.mod_modEq _ m)
    _ = x * y * montR m * montR m := by ring

theorem toMont_eq_montForm {x : Nat} (hx : x < m) : toMont m x = montForm m x := by
  refine redc_eq_mod hm (mul_lt_mul_montR hx (Nat.mod_lt _ (by omega))) ?_
  calc x * (montR m * montR m % m) ≡ x * (montR m * montR m) [MOD m] := (Nat.mod_modEq _ m).mul_left x
    _ = x * montR m * montR m := by ring

theorem fromMont_montForm (x : Nat) : fromMont m (montForm m x) = x % m := by
  have hlt : montForm m x < m := montForm_lt (by omega) x
  exact redc_eq_mod hm (hlt.trans_le (Nat.le_mul_of_pos_right m (Nat.two_pow_pos _))) (Nat.mod_modEq _ m)

/-- The power in Montgomery form is the power (R190). -/
theorem montPow_eq {b : Nat} (hb : b < m) (n : Nat) : montPow b n m = b ^ n % m := by
  have hpow := binaryPower_form (montMul_montForm hm) b n
  rw [← toMont_eq_montForm hm hb, montForm, one_mul] at hpow
  rw [montPow, hpow, fromMont_montForm hm]

end

/-- The truncated power is the power (R192). -/
theorem truncPow_eq {b t : Nat} (hb : b < 2 ^ t) (n : Nat) : truncPow b n t = b ^ n % 2 ^ t := by
  rw [← powerMod_eq, powerMod, Nat.mod_eq_of_lt hb]
  rfl

end Sys2Proof.Proofs
end

section
/-! The reference datapath of `MODPOW` (43_modpow.md R184, R194): the powers modulo the odd part and modulo the power of
two, recombined. -/

namespace Sys2Proof.Proofs
open Sys2Proof Sys2Proof.Machine

/-- The base after step 1 of R184. -/
def datapathBase (a e : Int) (M : Nat) : Int := if e < 0 then inverseDatapath a M else a

/-- `x1` of R184: the power modulo the odd part, or 0 where that is 1. -/
def oddPartPower (b : Int) (n m1 : Nat) : Nat := if 1 < m1 then montPow (b % (m1 : Int)).toNat n m1 else 0

/-- `x2` of R184: the power modulo the power of two, or 0 where that is 1. -/
def evenPartPower (b : Int) (n t : Nat) : Nat := if 0 < t then truncPow (b % ((2 ^ t : Nat) : Int)).toNat n t else 0

theorem mpowDatapath_eq_crt (a e : Int) (M : Nat) :
    mpowDatapath a e M =
      crt (oddPartPower (datapathBase a e M) e.natAbs (M / 2 ^ ctz M)) (M / 2 ^ ctz M)
        (evenPartPower (datapathBase a e M) e.natAbs (ctz M)) (ctz M) := rfl

theorem toNat_emod_lt (b : Int) {n : Nat} (hn : 0 < n) : (b % (n : Int)).toNat < n := by
  have hlt := Int.emod_lt_of_pos b (b := n) (by omega)
  omega

/-- The power of a reduced base, reduced. -/
theorem natCast_pow_toNat_emod (b : Int) (n : Nat) {m : Nat} (hm : 0 < m) :
    (((b % (m : Int)).toNat ^ n % m : Nat) : Int) = b ^ n % m := by
  push_cast
  rw [natCast_toNat_emod b hm]
  exact (Int.mod_modEq b m).pow n

theorem natCast_oddPartPower (b : Int) (n : Nat) {m1 : Nat} (hodd : m1 % 2 = 1) :
    (oddPartPower b n m1 : Int) = b ^ n % m1 := by
  have hpos : 0 < m1 := by omega
  rw [oddPartPower]
  split_ifs with hone
  · rw [montPow_eq hodd (toNat_emod_lt b hpos), natCast_pow_toNat_emod b n hpos]
  · obtain rfl : m1 = 1 := by omega
    exact (Int.emod_one _).symm

theorem natCast_evenPartPower (b : Int) (n t : Nat) : (evenPartPower b n t : Int) = b ^ n % (2 ^ t : Nat) := by
  have hpos : 0 < 2 ^ t := Nat.two_pow_pos t
  rw [evenPartPower]
  split_ifs with ht
  · rw [truncPow_eq (toNat_emod_lt b hpos), natCast_pow_toNat_emod b n hpos]
  · obtain rfl : t = 0 := by omega
    exact (Int.emod_one _).symm

/-- The recombination of the two powers is the power modulo the product, since the moduli are coprime. -/
theorem crt_partPowers_eq (b : Int) (n t : Nat) {m1 : Nat} (hodd : m1 % 2 = 1) :
    (crt (oddPartPower b n m1) m1 (evenPartPower b n t) t : Int) = b ^ n % (m1 * 2 ^ t : Nat) := by
  have hx1 := natCast_oddPartPower b n hodd
  have hx2 := natCast_evenPartPower b n t
  have hlt1 := Int.emod_lt_of_pos (b ^ n) (b := m1) (by omega)
  have hlt2 := Int.emod_lt_of_pos (b ^ n) (b := (2 ^ t : Nat)) (by positivity)
  obtain ⟨hlt, hmod1, hmod2⟩ :=
    crt_spec (x1 := oddPartPower b n m1) (x2 := evenPartPower b n t) (t := t) hodd (by omega) (by omega)
  rw [hx1] at hmod1
  rw [hx2] at hmod2
  have hcoprime : (m1 : Int).natAbs.Coprime ((2 ^ t : Nat) : Int).natAbs := coprime_two_pow hodd t
  have hmod := (Int.modEq_and_modEq_iff_modEq_mul hcoprime).1
    ⟨hmod1.trans (Int.mod_modEq _ _), (by exact_mod_cast hmod2.trans (Int.mod_modEq _ _))⟩
  rwa [Int.ModEq, ← Nat.cast_mul, Int.emod_eq_of_lt (Int.natCast_nonneg _) (by exact_mod_cast hlt)] at hmod

theorem mpowDatapath_eq_emod (a e : Int) {M : Nat} (hM : 0 < M) :
    (mpowDatapath a e M : Int) = datapathBase a e M ^ e.natAbs % M := by
  obtain ⟨hodd, hsplit⟩ := split_ctz hM
  rw [mpowDatapath_eq_crt, crt_partPowers_eq _ _ _ hodd, hsplit]

/-- Both sides take the inverse in `[0, |m|)` for a negative exponent. -/
theorem powerBase_eq_datapathBase {a e m : Int} (hm : m ≠ 0) (hok : 0 ≤ e ∨ Int.gcd a m = 1) :
    powerBase a e m = datapathBase a e m.natAbs := by
  obtain he | he := lt_or_ge e 0
  · have hgcd : Int.gcd a m = 1 := hok.resolve_left he.not_ge
    obtain ⟨hlt, hinv⟩ := inverseDatapath_spec (Int.natAbs_pos.2 hm) ((gcd_natCast_natAbs a m).trans hgcd)
    rw [datapathBase, if_pos he]
    exact powerBase_eq_of_inverse hm he hgcd (Int.natCast_nonneg _) (by exact_mod_cast hlt) hinv
  · rw [powerBase, datapathBase, if_neg he.not_gt, if_neg he.not_gt]

/-- The equivalence of R194. -/
theorem mpow_eq_mpowDatapath {a e m : Int} (hm : m ≠ 0) (hok : 0 ≤ e ∨ Int.gcd a m = 1) :
    mpow a e m = mpowDatapath a e m.natAbs := by
  rw [mpow_eq_emod a e hm, mpowDatapath_eq_emod a e (Int.natAbs_pos.2 hm), powerBase_eq_datapathBase hm hok]

/-- Settles O47: the command writes the modular power, and the datapath computes it. -/
theorem modpowDatapathAgrees : Obligations.ModpowDatapathAgrees := by
  intro s rd ra rb rc a e m ha he hm h1 hok
  have h0 : m ≠ 0 := by omega
  obtain ⟨-, -, hpow⟩ := exec_modpow_of_some (rd := rd) ha he hm
  rw [hpow h0 (.inr hok), mpow_eq_mpowDatapath h0 hok]

end Sys2Proof.Proofs
end

section
/-! The permutation (45_keccak.md R230 to R233): each step of a round lane by lane, with column and row as indices modulo 5,
and the lanes after each of the 24 rounds. -/

namespace Sys2Proof.Proofs
open Sys2Proof Sys2Proof.Machine

/-! ### Lanes by column and row -/

theorem lane_eq_getElem (A : Lanes) (x y : Fin 5) : lane A x y = A[x.val + 5 * y.val] := by
  simp [lane, Nat.mod_eq_of_lt]

theorem lane_lanesOf (f : Nat → Nat → Word) (x y : Fin 5) : lane (lanesOf f) x y = f x y := by
  fin_cases x <;> fin_cases y <;> rfl

/-- A lane depends on its column modulo 5. -/
theorem lane_congr {x x' : Nat} (h : x % 5 = x' % 5) (A : Lanes) (y : Nat) : lane A x y = lane A x' y := by
  simp only [lane, h]

/-! ### The steps of a round (45_keccak.md R231) -/

theorem columnParity_eq (L : Lanes) (x : Fin 5) :
    columnParity L x = L[x.val] ^^^ L[x.val + 5] ^^^ L[x.val + 10] ^^^ L[x.val + 15] ^^^ L[x.val + 20] := by
  simp [columnParity, lane, Nat.mod_eq_of_lt]

/-- `D[x]` (45_keccak.md R231, θ). -/
def thetaColumn (L : Lanes) (x : Fin 5) : Word :=
  columnParity L (x + 4 : Fin 5) ^^^ (columnParity L (x + 1 : Fin 5)).rotateLeft 1

theorem lane_theta (L : Lanes) (x y : Fin 5) : lane (theta L) x y = lane L x y ^^^ thetaColumn L x := by
  rw [theta, lane_lanesOf]
  fin_cases x <;> rfl

/-- The table by column and row (45_keccak.md R232). -/
theorem rotation_eq : ∀ x y : Fin 5, Machine.rotation x y =
    (#v[#v[0, 36, 3, 41, 18], #v[1, 44, 10, 45, 2], #v[62, 6, 43, 15, 61], #v[28, 55, 25, 21, 56],
      #v[27, 20, 39, 8, 14]] : Vector (Vector Nat 5) 5)[x][y] := by
  decide

/-- The place that ρ and π read for column `y`, row `2x + 3y` is column `x`, row `y`. -/
theorem rhoPi_source : ∀ x y : Fin 5, (y.val + 3 * (2 * x + 3 * y : Fin 5).val) % 5 = x := by
  decide

theorem lane_rhoPi (A : Lanes) (x y : Fin 5) :
    lane (rhoPi A) y (2 * x + 3 * y : Fin 5) = (lane A x y).rotateLeft (Machine.rotation x y) := by
  rw [rhoPi, lane_lanesOf]
  simp only [Machine.rotation, lane, rhoPi_source, Nat.mod_eq_of_lt x.isLt]

theorem lane_chi (B : Lanes) (x y : Fin 5) :
    lane (chi B) x y = lane B x y ^^^ (~~~ (lane B (x + 1 : Fin 5) y) &&& lane B (x + 2 : Fin 5) y) := by
  have hnext (k : Fin 5) : lane B (x.val + k.val) y = lane B (x + k : Fin 5) y :=
    lane_congr (by rw [Fin.val_add, Nat.mod_mod]) B y
  rw [chi, lane_lanesOf, ← hnext 1, ← hnext 2]
  rfl

theorem lane_iota (rc : Word) (A : Lanes) (x y : Fin 5) :
    lane (iota rc A) x y = if x = 0 ∧ y = 0 then lane A 0 0 ^^^ rc else lane A x y := by
  have hzero : 0 = x.val + 5 * y.val ↔ x = 0 ∧ y = 0 := by omega
  rw [lane_eq_getElem, lane_eq_getElem, iota, Vector.getElem_set]
  simp only [hzero]
  rfl

/-- Settles O35: the values of the rule's lines are the lanes after each step. -/
theorem keccakRoundFollowsItsSteps : Obligations.KeccakRoundFollowsItsSteps := by
  intro L rc
  refine ⟨fun x => columnParity L x, thetaColumn L, fun x y => lane (theta L) x y, fun x y => lane (rhoPi (theta L)) x y,
    fun x y => lane (chi (rhoPi (theta L))) x y, columnParity_eq L, fun _ => rfl, fun x y => ?_, fun x y => ?_, lane_chi _,
    fun x y => ?_⟩
  · exact (lane_theta L x y).trans (by rw [lane_eq_getElem])
  · exact (lane_rhoPi _ x y).trans (by rw [rotation_eq])
  · exact (lane_eq_getElem _ x y).symm.trans (lane_iota rc _ x y)

/-! ### The 24 rounds (45_keccak.md R230, R233) -/

/-- The lanes before round `n`. -/
def lanesBeforeRound (A : Lanes) (n : Nat) : Lanes := (roundConstants.take n).foldl keccakRound A

theorem lanesBeforeRound_succ {A : Lanes} {n : Nat} {rc : Word} (h : roundConstants[n]? = some rc) :
    lanesBeforeRound A (n + 1) = keccakRound (lanesBeforeRound A n) rc := by
  simp only [lanesBeforeRound, List.take_add_one, h, Option.toList_some, List.foldl_append, List.foldl_cons,
    List.foldl_nil]

theorem lanesBeforeRound_last (A : Lanes) : lanesBeforeRound A 24 = keccakF A := by
  rw [lanesBeforeRound, List.take_of_length_le (by decide), keccakF]

/-- Settles O34: each round's constant is the entry of the table at its number. -/
theorem kpermRunsTwentyFourRounds : Obligations.KpermRunsTwentyFourRounds := by
  refine ⟨encodedAs_of_rowOf (op := 0x55) rfl fun _ => rfl, fun s => ?_⟩
  have hexec : exec .kperm s = .next { s with lanes := lanesBeforeRound s.lanes 24 }.counted := by
    rw [lanesBeforeRound_last]; rfl
  refine ⟨lanesBeforeRound s.lanes, rfl, ?_⟩
  iterate 24 refine ⟨lanesBeforeRound_succ rfl, ?_⟩
  exact hexec

end Sys2Proof.Proofs
end

section
/-! The words of the sponge commands, and the start of a sponge (45_keccak.md R240, R241). -/

namespace Sys2Proof.Proofs
open Sys2Proof Sys2Proof.Machine

/-! ### The words of the rows with sub-fields (30_encoding.md R91) -/

theorem fieldsOf_len (w : Word) : (fieldsOf w).len = w.extractLsb' 16 16 :=
  BitVec.extractLsb'_extractLsb'_of_le (by decide)

theorem fieldsOf_addr (w : Word) : (fieldsOf w).addr = w.extractLsb' 0 16 :=
  BitVec.extractLsb'_extractLsb'_of_le (by decide)

theorem fieldsOf_shake (w : Word) : (fieldsOf w).shake = w.getLsbD 32 := by
  simp [Fields.shake, fieldsOf]

theorem kabs_words :
    EncodedAs 0x5200000000000000 0xFFFFFFFF00000000 fun w => .kabs (w.extractLsb' 16 16) (w.extractLsb' 0 16) := by
  simp only [← fieldsOf_len, ← fieldsOf_addr]
  exact encodedAs_of_rowOf (op := 0x52) rfl fun _ => rfl

theorem kflip_words : EncodedAs 0x5300000000000000 0xFFFFFFFEFFFFFFFF fun w => .kflip (w.getLsbD 32) := by
  simp only [← fieldsOf_shake]
  exact encodedAs_of_rowOf (op := 0x53) rfl fun _ => rfl

theorem ksqz_words :
    EncodedAs 0x5400000000000000 0xFFFFFFFF00000000 fun w => .ksqz (w.extractLsb' 16 16) (w.extractLsb' 0 16) := by
  simp only [← fieldsOf_len, ← fieldsOf_addr]
  exact encodedAs_of_rowOf (op := 0x54) rfl fun _ => rfl

/-! ### The start of a sponge (45_keccak.md R240, R241) -/

theorem exec_kinit_of_illegal {s : State} {c : BitVec 32} (h : ¬LegalCapacity c.toNat) :
    exec (.kinit c) s = .next (s.faulted 6) :=
  finish_require_of_false h _

theorem exec_kinit_of_legal {s : State} {c : BitVec 32} (h : LegalCapacity c.toNat) :
    exec (.kinit c) s =
      .next { s with cap := BitVec.ofNat 11 c.toNat, lanes := Vector.replicate 25 0, mode := .absorb, pos := 0 }.counted :=
  finish_require_of_true h _

theorem replicate_zero_getElem (i : Fin 25) : (Vector.replicate 25 (0 : Word))[i] = 0 := Vector.getElem_replicate i.isLt

/-- Settles O30: the illegal capacities are those that fail the model's test, and a legal one fits the 11 bits of `CAP`. -/
theorem kinitAndKresetStartASponge : Obligations.KinitAndKresetStartASponge := by
  refine ⟨encodedAs_of_rowOf (op := 0x50) rfl fun _ => rfl, encodedAs_of_rowOf (op := 0x51) rfl fun _ => rfl,
    fun s => ⟨fun c h => exec_kinit_of_illegal (by omega), fun c hpos hlt hmul => ?_, ?_⟩⟩
  · have hc : LegalCapacity c.toNat := ⟨hpos, hlt, hmul⟩
    exact ⟨_, exec_kinit_of_legal hc, toNat_ofNat_cap hc, replicate_zero_getElem, rfl⟩
  · exact ⟨_, rfl, replicate_zero_getElem, rfl⟩

/-- A command that writes back the mode it requires leaves it unchanged. -/
theorem writeSponge_of_mode {s : State} {m : SpongeMode} (hm : s.mode = m) (A : Lanes) (p : Nat) :
    writeSponge s A m p = { s with lanes := A, pos := BitVec.ofNat 8 p } := by
  rw [writeSponge, ← hm]

end Sys2Proof.Proofs
end

section
/-! Absorbing and padding (45_keccak.md R242, R243). -/

namespace Sys2Proof.Proofs
open Sys2Proof Sys2Proof.Machine

theorem readBytes_add (s : State) (a m n : Nat) : readBytes s a (m + n) = readBytes s a m ++ readBytes s (a + m) n := by
  simp [readBytes, List.range_add, Nat.add_assoc, Function.comp_def]

/-- The lanes and the position after absorbing `n` bytes from the address `a` upward. -/
def absorbed (s : State) (a n : Nat) : Lanes × Nat := absorb (rate s) (s.lanes, s.pos.toNat) (readBytes s a n)

theorem absorbed_add (s : State) (a m n : Nat) :
    absorbed s a (m + n) = absorb (rate s) (absorbed s a m) (readBytes s (a + m) n) := by
  rw [absorbed, readBytes_add, absorb, List.foldl_append]
  rfl

/-- One pass of the loop. -/
theorem absorbed_succ (s : State) (a n : Nat) :
    absorbed s a (n + 1) = absorbByte (rate s) (absorbed s a n) (readByte s (a + n)) :=
  absorbed_add s a n 1

theorem absorbed_pos_lt {s : State} (hs : s.SpongeOk) (hm : s.mode = .absorb) (a n : Nat) :
    (absorbed s a n).2 < rate s := by
  obtain ⟨hc, hpos, -⟩ := hs
  exact absorb_pos_lt (rate_bounds hc).1 _ (hpos hm)

/-- The two components of a pass: the permutation runs exactly when the byte was the last of its block. -/
theorem absorbByte_fst (r : Nat) (st : Lanes × Nat) (b : Byte) :
    (absorbByte r st b).1 = if st.2 + 1 = r then keccakF (xorByte st.1 st.2 b) else xorByte st.1 st.2 b :=
  apply_ite Prod.fst _ _ _

theorem absorbByte_snd (r : Nat) (st : Lanes × Nat) (b : Byte) :
    (absorbByte r st b).2 = if st.2 + 1 = r then 0 else st.2 + 1 :=
  apply_ite Prod.snd _ _ _

/-- The state with the lanes and the position of `absorbed`. -/
def absorbedState (s : State) (a n : Nat) : State :=
  { s with lanes := (absorbed s a n).1, pos := BitVec.ofNat 8 (absorbed s a n).2 }

section
variable {s : State} {len addr : BitVec 16}

theorem exec_kabs_of_outOfBounds (h : s.cfg.bufsz < addr.toNat + len.toNat) :
    exec (.kabs len addr) s = .next (s.faulted 3) :=
  finish_require_of_false (not_le.2 h) _

theorem exec_kabs_of_squeeze (hb : InBuffer s len addr) (hm : s.mode = .squeeze) :
    exec (.kabs len addr) s = .next (s.faulted 4) := by
  rw [exec, execKabs, finish_require_of_true hb]
  exact finish_require_of_false (by simp [hm]) _

theorem exec_kabs_of_absorb (hb : InBuffer s len addr) (hm : s.mode = .absorb) :
    exec (.kabs len addr) s = .next (absorbedState s addr.toNat len.toNat).counted := by
  rw [exec, execKabs, finish_require_of_true hb, finish_require_of_true hm]
  exact congrArg (fun t => finish s (.ok t)) (writeSponge_of_mode hm _ _)

end

/-- Settles O31: the lanes and positions of the rule's loop are those after the first `k` bytes, for each `k`. -/
theorem kabsAbsorbsByteByByte : Obligations.KabsAbsorbsByteByByte := by
  refine ⟨kabs_words, fun s len addr => ⟨exec_kabs_of_outOfBounds, exec_kabs_of_squeeze, fun hb hm hs => ?_⟩⟩
  refine ⟨fun k => (absorbed s addr.toNat k).1, fun k => (absorbed s addr.toNat k).2, rfl, rfl,
    fun k _ => ⟨_, rfl, ?_, ?_⟩, fun k _ => absorbed_pos_lt hs hm _ k, exec_kabs_of_absorb hb hm⟩
  · exact (congrArg Prod.fst (absorbed_succ s addr.toNat k)).trans (absorbByte_fst _ _ _)
  · exact (congrArg Prod.snd (absorbed_succ s addr.toNat k)).trans (absorbByte_snd _ _ _)

/-- The position register holds the loop's position, so absorbing goes on where it stopped. -/
theorem absorbed_absorbedState {s : State} (hs : s.SpongeOk) (hm : s.mode = .absorb) (a m n : Nat) :
    absorbed (absorbedState s a m).counted (a + m) n = absorbed s a (m + n) := by
  have hpos : (BitVec.ofNat 8 (absorbed s a m).2).toNat = (absorbed s a m).2 :=
    toNat_ofNat_pos ((absorbed_pos_lt hs hm a m).trans (rate_bounds hs.1).2)
  have hstart : absorbed (absorbedState s a m).counted (a + m) n =
      absorb (rate s) ((absorbed s a m).1, (BitVec.ofNat 8 (absorbed s a m).2).toNat) (readBytes s (a + m) n) := rfl
  rw [hstart, hpos, absorbed_add]

/-- Settles O37: the loop over both ranges is the loop over the second, from where the loop over the first ends. -/
theorem absorbingInPiecesIsAbsorbingAtOnce : Obligations.AbsorbingInPiecesIsAbsorbingAtOnce := by
  intro s len₁ len₂ len addr addr₂ hs hm hlen haddr hb
  have hfirst : InBuffer s len₁ addr := by unfold InBuffer; omega
  have hsecond : InBuffer (absorbedState s addr.toNat len₁.toNat).counted len₂ addr₂ :=
    show addr₂.toNat + len₂.toNat ≤ s.cfg.bufsz by omega
  refine ⟨_, _, _, exec_kabs_of_absorb hfirst hm, exec_kabs_of_absorb hsecond hm, exec_kabs_of_absorb hb hm, rfl, ?_⟩
  have hcount : s.cmdcnt + 1 + 1 = s.cmdcnt + 2 := BitVec.add_assoc _ _ _
  rw [absorbedState, haddr, absorbed_absorbedState hs hm, ← hlen, ← hcount]
  rfl

/-! ### Padding (45_keccak.md R243) -/

theorem stateByte_xorByte_eq_xor (A : Lanes) {j k : Nat} (b : Byte) (hk : k < 200) :
    stateByte (xorByte A j b) k = stateByte A k ^^^ (if k = j then b else 0) := by
  rw [stateByte_xorByte A b hk]
  split_ifs with h
  · rw [h]
  · exact BitVec.xor_zero.symm

theorem stateByte_padState (A : Lanes) (pos r : Nat) (shake : Bool) {j : Nat} (hj : j < 200) :
    stateByte (padState A pos r shake) j =
      stateByte A j ^^^ (if j = pos then domainByte shake else 0) ^^^ (if j = r - 1 then 0x80 else 0) := by
  rw [padState, stateByte_xorByte_eq_xor _ _ hj, stateByte_xorByte_eq_xor _ _ hj]

theorem exec_kflip_of_squeeze {s : State} (shake : Bool) (hm : s.mode = .squeeze) :
    exec (.kflip shake) s = .next (s.faulted 4) :=
  finish_require_of_false (by simp [hm]) _

theorem exec_kflip_of_absorb {s : State} (shake : Bool) (hm : s.mode = .absorb) :
    exec (.kflip shake) s =
      .next { s with lanes := keccakF (padState s.lanes s.pos.toNat (rate s) shake), mode := .squeeze, pos := 0 }.counted :=
  finish_require_of_true hm _

/-- Settles O32: each of the two bytes changes its own state byte, so where they meet both are XORed into it. -/
theorem kflipPadsAndPermutes : Obligations.KflipPadsAndPermutes :=
  ⟨kflip_words, fun s shake => ⟨exec_kflip_of_squeeze shake, fun hm _ =>
    ⟨padState s.lanes s.pos.toNat (rate s) shake, fun _ hj => stateByte_padState _ _ _ _ hj,
      exec_kflip_of_absorb shake hm⟩⟩⟩

end Sys2Proof.Proofs
end

section
/-! Squeezing (45_keccak.md R244): the loop delivers a stream of bytes that only the lanes and the rate determine. -/

namespace Sys2Proof.Proofs
open Sys2Proof Sys2Proof.Machine

/-- The lanes that byte `q` of the output stream is read from, counting from the first byte of the block in `A`. -/
def streamLanes (r : Nat) (A : Lanes) (q : Nat) : Lanes := keccakF^[q / r] A

/-- Byte `q` of the output stream. -/
def streamByte (r : Nat) (A : Lanes) (q : Nat) : Byte := stateByte (streamLanes r A q) (q % r)

section
variable {r : Nat}

/-- The permutation before a byte that stands beyond the block. -/
theorem advance_eq_stream (hr : 0 < r) (A : Lanes) {p : Nat} (hp : p ≤ r) :
    (if p = r then (keccakF A, 0) else (A, p)) = (streamLanes r A p, p % r) := by
  split_ifs with h
  · rw [h, streamLanes, Nat.div_self hr, Nat.mod_self]
    rfl
  · have hlt : p < r := by omega
    rw [streamLanes, Nat.div_eq_of_lt hlt, Nat.mod_eq_of_lt hlt]
    rfl

/-- The stream from byte `p` on is the stream of the block that holds byte `p`. -/
theorem streamLanes_streamLanes (hr : 0 < r) (A : Lanes) (p k : Nat) :
    streamLanes r (streamLanes r A p) (p % r + k) = streamLanes r A (p + k) := by
  have hdiv : (p + k) / r = (p % r + k) / r + p / r := by
    conv_lhs => rw [← Nat.mod_add_div p r, Nat.add_right_comm, Nat.add_mul_div_left _ _ hr]
  rw [streamLanes, streamLanes, streamLanes, hdiv, Function.iterate_add_apply]

theorem streamByte_streamLanes (hr : 0 < r) (A : Lanes) (p k : Nat) :
    streamByte r (streamLanes r A p) (p % r + k) = streamByte r A (p + k) := by
  rw [streamByte, streamByte, streamLanes_streamLanes hr, Nat.mod_add_mod]

/-- One pass of the loop, in terms of the stream. -/
theorem squeeze_succ (hr : 0 < r) (n : Nat) (A : Lanes) {p : Nat} (hp : p ≤ r) :
    squeeze r (n + 1) (A, p) =
      (streamByte r A p :: (squeeze r n (streamLanes r A p, p % r + 1)).1,
        (squeeze r n (streamLanes r A p, p % r + 1)).2) := by
  simp only [squeeze, advance_eq_stream hr A hp]
  rfl

/-- The bytes delivered are the stream from the position on. -/
theorem squeeze_bytes (hr : 0 < r) (n : Nat) : ∀ (A : Lanes) {p : Nat}, p ≤ r →
    (squeeze r n (A, p)).1 = (List.range n).map fun k => streamByte r A (p + k) := by
  induction n with
  | zero => exact fun _ _ _ => rfl
  | succ n ih =>
    intro A p hp
    rw [squeeze_succ hr n A hp, ih _ (Nat.mod_lt p hr), List.range_succ_eq_map, List.map_cons, List.map_map]
    simp only [Function.comp_def, Nat.add_assoc (p % r), streamByte_streamLanes hr, Nat.add_zero,
      Nat.succ_eq_add_one, Nat.add_comm 1]

/-- After the last byte the block is the one that byte was read from, and the position is the next. -/
theorem squeeze_end (hr : 0 < r) (n : Nat) : ∀ (A : Lanes) {p : Nat}, p ≤ r →
    (squeeze r (n + 1) (A, p)).2 = (streamLanes r A (p + n), (p + n) % r + 1) := by
  induction n with
  | zero =>
    intro A p hp
    rw [squeeze_succ hr 0 A hp, Nat.add_zero]
    rfl
  | succ n ih =>
    intro A p hp
    calc (squeeze r (n + 1 + 1) (A, p)).2
        = (squeeze r (n + 1) (streamLanes r A p, p % r + 1)).2 := by
          rw [squeeze_succ hr (n + 1) A hp]
      _ = (streamLanes r (streamLanes r A p) (p % r + 1 + n), (p % r + 1 + n) % r + 1) := ih _ (Nat.mod_lt p hr)
      _ = (streamLanes r A (p + (n + 1)), (p + (n + 1)) % r + 1) := by
        rw [Nat.add_assoc (p % r), streamLanes_streamLanes hr, Nat.mod_add_mod, Nat.add_comm 1]

end

section
variable {s : State} {len addr : BitVec 16}

theorem exec_ksqz_of_outOfBounds (h : s.cfg.bufsz < addr.toNat + len.toNat) :
    exec (.ksqz len addr) s = .next (s.faulted 3) :=
  finish_require_of_false (not_le.2 h) _

theorem exec_ksqz_of_absorb (hb : InBuffer s len addr) (hm : s.mode = .absorb) :
    exec (.ksqz len addr) s = .next (s.faulted 4) := by
  rw [exec, execKsqz, finish_require_of_true hb]
  exact finish_require_of_false (by simp [hm]) _

/-- The command's effect in terms of what the loop answers. -/
theorem exec_ksqz_of_squeeze (hb : InBuffer s len addr) (hm : s.mode = .squeeze) {out : List Byte} {A : Lanes} {p : Nat}
    (hout : squeeze (rate s) len.toNat (s.lanes, s.pos.toNat) = (out, A, p)) :
    exec (.ksqz len addr) s =
      .next (writeBytes { s with lanes := A, pos := BitVec.ofNat 8 p }.counted addr.toNat out) := by
  rw [exec, execKsqz, finish_require_of_true hb, finish_require_of_true hm, hout]
  exact congrArg (fun t => finish s (.ok (writeBytes t addr.toNat out))) (writeSponge_of_mode hm A p)

end

/-- Settles O33: the loop's bytes are the stream from the position on; with no byte asked for, all three of the buffer, the
lanes and the position are written back as they were. -/
theorem ksqzDeliversTheStream : Obligations.KsqzDeliversTheStream := by
  refine ⟨ksqz_words, fun s len addr => ⟨exec_ksqz_of_outOfBounds, exec_ksqz_of_absorb, fun hb hm hs =>
    ⟨fun h0 => ?_, fun hpos => ?_⟩⟩⟩
  · have hout : squeeze (rate s) len.toNat (s.lanes, s.pos.toNat) = ([], s.lanes, s.pos.toNat) := by rw [h0]; rfl
    rw [exec_ksqz_of_squeeze hb hm hout, BitVec.ofNat_toNat, BitVec.setWidth_eq]
    rfl
  · obtain ⟨hc, -, hp⟩ := hs
    have hr : 0 < rate s := (rate_bounds hc).1
    obtain ⟨n, hn⟩ : ∃ n, len.toNat = n + 1 := Nat.exists_eq_add_one.2 hpos
    have hout : squeeze (rate s) len.toNat (s.lanes, s.pos.toNat) =
        ((List.range len.toNat).map fun k => streamByte (rate s) s.lanes (s.pos.toNat + k),
          streamLanes (rate s) s.lanes (s.pos.toNat + n), (s.pos.toNat + n) % rate s + 1) :=
      Prod.ext (squeeze_bytes hr _ _ (hp hm)) (hn ▸ squeeze_end hr n _ (hp hm))
    have hlast : s.pos.toNat + len.toNat - 1 = s.pos.toNat + n := by omega
    refine ⟨_, exec_ksqz_of_squeeze hb hm hout, by rw [hlast]; rfl, fun k hk => ?_, fun a ha => ?_⟩
    · rw [readByte_writeBytes_inside (by simpa using hk), List.getElem_map, List.getElem_range]
      rfl
    · rw [readByte_writeBytes_outside (by simp; omega)]
      rfl

end Sys2Proof.Proofs
end

section
/-! `NOP` (46_system.md R270), and the example words of the command rules. -/

namespace Sys2Proof.Proofs
open Sys2Proof Sys2Proof.Machine

/-- A completed command without effects. -/
theorem exec_nop (s : State) : exec .nop s = .next s.counted :=
  finish_ok s s

/-- Settles O7: all 64 bits of `NOP`'s row are fixed, and what it completes with is the state it found. -/
theorem nopOnlyCounts : Obligations.NopOnlyCounts :=
  ⟨encodedAs_of_rowOf (op := 0x01) rfl fun _ => rfl, exec_nop⟩

/-- Settles O4: each example word is the encoding of its well-formed command, and the decoder answers a command on exactly
that word. -/
theorem sampleWordsDecode : Obligations.SampleWordsDecode := by
  unfold Obligations.SampleWordsDecode
  simp only [decode_eq_ok_iff]
  decide

end Sys2Proof.Proofs
end

section
/-! The engine's turn (60_exceptions.md R281, R282, R285, R308): when it runs, what it runs, and the words it faults on. -/

namespace Sys2Proof.Proofs
open Sys2Proof Sys2Proof.Machine

theorem step_of_empty {s : State} (h : s.agenda = []) : step s = engineTurn s := by
  simp [step, h]

theorem step_of_engine {s : State} {rest : List Turn} (h : s.agenda = .engine :: rest) :
    step s = engineTurn { s with agenda := rest } := by
  simp [step, takeTurn, h]

theorem engineTurn_of_decode {s : State} {i : Instr} (hbusy : s.busy = true) (h : decode s.pend = .ok i) :
    engineTurn s = exec i s := by
  rw [engineTurn_of_busy hbusy, engineStep, h]

/-- Settles O5: both ways in which the engine gets its turn are `engineTurn`, on an idle and on a busy block. -/
theorem stepRunsTheDecodedCommand : Obligations.StepRunsTheDecodedCommand := by
  refine fun s => ⟨fun hidle => ⟨fun ha => ?_, fun rest ha => ?_⟩,
    fun i hi hbusy => ⟨fun ha => ?_, fun rest ha => ?_⟩⟩
  · rw [step_of_empty ha, engineTurn_of_idle hidle]
  · rw [step_of_engine ha, engineTurn_of_idle (s := { s with agenda := rest }) hidle]
  · rw [step_of_empty ha, engineTurn_of_decode hbusy hi]
  · rw [step_of_engine ha, engineTurn_of_decode (s := { s with agenda := rest }) hbusy hi]

/-- A word that matches no row, or names one destination twice, decodes to no command. -/
theorem decode_ne_ok_of_illegal {w : Word}
    (h : (∀ row ∈ opcodeTable, w &&& row.mask ≠ row.pattern) ∨ ¬DistinctDestinations w) (i : Instr) :
    decode w ≠ .ok i := by
  intro hi
  obtain ⟨-, -, -, haccepts⟩ := decodeAcceptsExactlyTheTable
  obtain ⟨row, hrow, hmatch, hdistinct, -⟩ := (haccepts w i).1 hi
  exact h.elim (fun hnone => hnone row hrow hmatch) (fun hequal => hequal hdistinct)

theorem engineTurn_of_illegal {s : State} (hbusy : s.busy = true) (h : ∀ i, decode s.pend ≠ .ok i) :
    engineTurn s = .next (s.faulted 1) := by
  rw [engineTurn_of_busy hbusy]
  obtain ⟨i, hi, -⟩ | ⟨-, hfault⟩ := engineStep_cases s
  · exact absurd hi (h i)
  · exact hfault

/-- Settles O6: what the decoder does not accept it rejects, and every rejection is the same fault. -/
theorem illegalWordFaultsWithCode1 : Obligations.IllegalWordFaultsWithCode1 := by
  intro s hbusy hillegal
  have hdecode := decode_ne_ok_of_illegal hillegal
  refine ⟨fun ha => ?_, fun rest ha => ?_⟩
  · rw [step_of_empty ha, engineTurn_of_illegal hbusy hdecode]
  · rw [step_of_engine ha, engineTurn_of_illegal (s := { s with agenda := rest }) hbusy hdecode]

end Sys2Proof.Proofs
end

section
/-! How each command ends (60_exceptions.md R281, R283, R286, R294): it completes without touching the control registers,
or it faults with a cause of its row, `InvalidRegister` only for a source without a value. -/

namespace Sys2Proof.Proofs
open Sys2Proof Sys2Proof.Machine

/-- `u` differs from `s` at most in what the effects of commands are about: the registers, `FLAGS`, `SRES`, the sponge and
`BUF`. -/
def SameControl (s u : State) : Prop :=
  u = { s with
    regs := u.regs, flags := u.flags, sres := u.sres, lanes := u.lanes, cap := u.cap, mode := u.mode, pos := u.pos,
    buf := u.buf }

/-- The command `i` may fault with the cause `c` in the state `s`: the cause is in its row (60_exceptions.md R294), and
`InvalidRegister` has its reason (R286). -/
def MayRaise (s : State) (i : Instr) (c : Cause) : Prop :=
  c.code ∈ possibleCauses i ∧ (c = .invalidRegister → ∃ r ∈ sources i, s.regs[r] = none)

/-- What `Execute` may answer for the command `i` in the state `s` (60_exceptions.md R281). -/
def MayAnswer (s : State) (i : Instr) : Except Cause State → Prop
  | .ok u => SameControl s u
  | .error c => MayRaise s i c

/-! ### The tests of a command, one by one -/

theorem invalidRegister_mem_possibleCauses {i : Instr} {r : Reg} (hr : r ∈ sources i) :
    Cause.invalidRegister.code ∈ possibleCauses i := by
  cases i <;> simp_all [sources, possibleCauses, Cause.code]

section
variable {s : State} {i : Instr}

theorem MayAnswer.effects {u : State} (h : SameControl s u := by rfl) : MayAnswer s i (pure u) := h

theorem MayAnswer.source {r : Reg} {f : Int → Except Cause State} (hf : ∀ a, MayAnswer s i (f a))
    (hr : r ∈ sources i := by simp [sources]) : MayAnswer s i (source s r >>= f) := by
  cases hv : s.regs[r] with
  | none =>
    rw [source_of_none hv]
    exact ⟨invalidRegister_mem_possibleCauses hr, fun _ => ⟨r, hr, hv⟩⟩
  | some a =>
    rw [source_of_some hv]
    exact hf a

theorem MayAnswer.require {p : Prop} [Decidable p] {c : Cause} {f : Unit → Except Cause State}
    (hf : MayAnswer s i (f ())) (hc : c.code ∈ possibleCauses i := by simp [possibleCauses, Cause.code])
    (hne : c ≠ .invalidRegister := by decide) : MayAnswer s i (require p c >>= f) := by
  by_cases hp : p
  · rw [require_of_true c hp]
    exact hf
  · rw [require_of_false c hp]
    exact ⟨hc, fun h => absurd h hne⟩

end

/-! ### The commands -/

/-- Each command is its tests in order, then its effects. -/
theorem exec_eq_finish (s : State) : ∀ i, ∃ r, exec i s = finish s r ∧ MayAnswer s i r
  | .nop => ⟨_, rfl, .effects⟩
  | .ldi _ _ => ⟨_, rfl, .effects⟩
  | .mov _ _ => ⟨_, rfl, .source fun _ => .effects⟩
  | .ld _ _ _ _ => ⟨_, rfl, .require (.require .effects)⟩
  | .st _ _ _ _ => ⟨_, rfl, .source fun _ => .require (.require (.require .effects))⟩
  | .enclen _ _ => ⟨_, rfl, .source fun _ => .require .effects⟩
  | .add _ _ _ => ⟨_, rfl, .source fun _ => .source fun _ => .require .effects⟩
  | .sub _ _ _ => ⟨_, rfl, .source fun _ => .source fun _ => .require .effects⟩
  | .neg _ _ => ⟨_, rfl, .source fun _ => .require .effects⟩
  | .mul _ _ _ => ⟨_, rfl, .source fun _ => .source fun _ => .require .effects⟩
  | .divrem _ _ _ _ => ⟨_, rfl, .require (.source fun _ => .source fun _ => .require (.require .effects))⟩
  | .mod _ _ _ => ⟨_, rfl, .source fun _ => .source fun _ => .require .effects⟩
  | .and _ _ _ => ⟨_, rfl, .source fun _ => .source fun _ => .effects⟩
  | .or _ _ _ => ⟨_, rfl, .source fun _ => .source fun _ => .effects⟩
  | .xor _ _ _ => ⟨_, rfl, .source fun _ => .source fun _ => .effects⟩
  | .not _ _ => ⟨_, rfl, .source fun _ => .effects⟩
  | .shl _ _ _ => ⟨_, rfl, .source fun _ => .require .effects⟩
  | .shr _ _ _ => ⟨_, rfl, .source fun _ => .effects⟩
  | .tst _ => ⟨_, rfl, .source fun _ => .effects⟩
  | .tbit _ _ => ⟨_, rfl, .source fun _ => .effects⟩
  | .bitlen _ => ⟨_, rfl, .source fun _ => .effects⟩
  | .ctz _ => ⟨_, rfl, .source fun _ => .require .effects⟩
  | .modinv _ _ _ => ⟨_, rfl, .source fun _ => .source fun _ => .require (.require .effects)⟩
  | .gcd _ _ _ => ⟨_, rfl, .source fun _ => .source fun _ => .require .effects⟩
  | .xgcd _ _ _ _ _ => ⟨_, rfl, .require (.source fun _ => .source fun _ => .require .effects)⟩
  | .modpow _ _ _ _ =>
    ⟨_, rfl, .source fun _ => .source fun _ => .source fun _ => .require (.require .effects)⟩
  | .kinit _ => ⟨_, rfl, .require .effects⟩
  | .kreset => ⟨_, rfl, .effects⟩
  | .kabs _ _ => ⟨_, rfl, .require (.require .effects)⟩
  | .kflip _ => ⟨_, rfl, .require .effects⟩
  | .ksqz _ _ => ⟨_, rfl, .require (.require .effects)⟩
  | .kperm => ⟨_, rfl, .effects⟩

/-- Both ends of a command, with what bounds each. -/
theorem exec_ends (i : Instr) (s : State) :
    (∃ u, exec i s = .next (complete u) ∧ SameControl s u) ∨
      ∃ c, exec i s = .next (s.faulted c.code) ∧ MayRaise s i c := by
  obtain ⟨r, hexec, hr⟩ := exec_eq_finish s i
  cases r with
  | ok u => exact .inl ⟨u, hexec, hr⟩
  | error c => exact .inr ⟨c, hexec, hr⟩

theorem SameControl.cmdcnt_eq {s u : State} (h : SameControl s u) : u.cmdcnt = s.cmdcnt := by rw [h]

/-- A completed command is not a fault: it is counted. -/
theorem complete_ne_faulted {s u : State} (h : SameControl s u) (code : BitVec 8) : complete u ≠ s.faulted code := by
  intro heq
  have hcount : u.cmdcnt + 1 = s.cmdcnt := congrArg State.cmdcnt heq
  rw [h.cmdcnt_eq] at hcount
  bv_omega

theorem code_eq_two_iff (c : Cause) : c.code = 2 ↔ c = .invalidRegister := by
  cases c <;> decide

/-- The sources are read before any other operand is tested (60_exceptions.md R286). -/
theorem exec_of_source_none {i : Instr} {s : State} (hwf : i.WellFormed = true)
    (h : ∃ r ∈ sources i, s.regs[r] = none) : exec i s = .next (s.faulted 2) := by
  cases i <;> simp only [sources, List.mem_cons, List.not_mem_nil, or_false, false_and, exists_false, exists_eq_left,
    exists_eq_or_imp] at h
  case add | sub | mul | mod | and | or | xor | modinv | gcd => exact finish_sources_of_none h _
  case divrem => exact exec_divrem_of_none (by simpa [Instr.WellFormed] using hwf) h
  case xgcd => exact exec_xgcd_of_none (by simpa [Instr.WellFormed, and_assoc] using hwf) h
  case modpow => exact exec_modpow_of_none h
  all_goals exact finish_source_of_none h _

/-- Settles O38: a source without a value decides the end; an end with code 2 has no other reason. -/
theorem invalidRegisterFaultsFirst : Obligations.InvalidRegisterFaultsFirst := by
  refine fun i s hwf => ⟨exec_of_source_none hwf, fun h => ?_⟩
  obtain ⟨u, hexec, hu⟩ | ⟨c, hexec, -, hinvalid⟩ := exec_ends i s
  · exact absurd (Host.Outcome.next.inj (hexec.symm.trans h)) (complete_ne_faulted hu 2)
  · have hcode : c.code = 2 := congrArg State.cause (Host.Outcome.next.inj (hexec.symm.trans h))
    exact hinvalid ((code_eq_two_iff c).1 hcode)

/-- Settles O39. -/
theorem everyCommandCompletesOrFaults : Obligations.EveryCommandCompletesOrFaults := by
  intro i s
  obtain ⟨u, hexec, hu⟩ | ⟨c, hexec, hc, -⟩ := exec_ends i s
  · refine ⟨complete u, hexec, .inr ?_⟩
    rw [hu]
    exact ⟨rfl, rfl, rfl, rfl, rfl, rfl, rfl, rfl, rfl, rfl, rfl, rfl, rfl⟩
  · exact ⟨_, hexec, .inl ⟨_, hc, rfl⟩⟩

end Sys2Proof.Proofs
end

section
/-! The sticky fault (60_exceptions.md R298, R299; 70_reset_and_hazards.md R333): what a faulted block's turns can do. -/

namespace Sys2Proof.Proofs
open Sys2Proof Sys2Proof.Machine

/-- A host read answers, and does nothing else. -/
theorem hostRead_cases (off size : Nat) (s : State) :
    (∃ v, hostRead off size s = answerRead v s) ∨ hostRead off size s = answerUnspecified size s := by
  unfold hostRead
  split
  · exact .inr rfl
  · split
    · exact .inr rfl
    · split
      · exact .inr rfl
      · exact .inl ⟨_, rfl⟩
    · split
      · exact .inr rfl
      · exact .inl ⟨_, rfl⟩

/-- A faulted block drops a command word; of the host's writes only bytes of `BUF` and the soft reset take effect. -/
theorem hostWrite_of_faulted {s : State} {off size : Nat} {v : Word} (hidle : s.busy = false) (hfault : s.fault = true)
    (hctrl : off = 0x020 → v.getLsbD 0 = false) :
    hostWrite off size v s = s ∨ ∃ a bs, hostWrite off size v s = writeBytes s a bs := by
  unfold hostWrite
  split
  · exact .inl rfl
  · split
    · exact .inl rfl
    · rename_i o htarget
      obtain rfl := eq_of_targetOf_eq_register htarget
      have hno : ¬(o = 0x020 ∧ v.getLsbD 0 = true) := fun ⟨ho, hv⟩ => Bool.noConfusion ((hctrl ho).symm.trans hv)
      rw [if_neg hno]
      simp [hidle, acceptCommand, hfault]
    · exact .inr ⟨_, _, if_neg (by simp [hidle])⟩

/-- Settles O55: the engine of a faulted block is idle, a read only answers, and a write is dropped or stores bytes. -/
theorem faultIsStickyUntilReset : Obligations.FaultIsStickyUntilReset := by
  intro s hfault hok hpin hctrl
  have hidle : s.busy = false := (hok.2 hfault).1
  obtain ⟨-, hstep⟩ | ⟨rest, -, hstep⟩ | ⟨a, rest, hturn, hstep⟩ | ⟨rest, hturn, -⟩ | ⟨rest, hturn, -⟩ := step_cases s
  · exact ⟨s, hstep.trans (engineTurn_of_idle hidle), rfl, fun _ => rfl⟩
  · exact ⟨_, hstep.trans (engineTurn_of_idle hidle), rfl, fun _ => rfl⟩
  · refine ⟨_, hstep, ?_⟩
    cases a with
    | read off size =>
      rw [hostAccess]
      obtain ⟨v, h⟩ | h := hostRead_cases off size { s with agenda := rest } <;> rw [h] <;> exact ⟨rfl, fun _ => rfl⟩
    | write off size v =>
      refine ⟨?_, fun hno => absurd hturn (hno rest off size v)⟩
      rw [hostAccess]
      obtain h | ⟨b, bs, h⟩ := hostWrite_of_faulted (s := { s with agenda := rest }) (size := size) hidle hfault
        (fun hoff => hctrl rest size v (hoff ▸ hturn))
      · rw [h]
      · rw [h]; rfl
  · exact absurd hturn (hpin rest).1
  · exact absurd hturn (hpin rest).2

end Sys2Proof.Proofs
end

section
/-! The asserted reset input (70_reset_and_hazards.md R320): the turn that asserts it, and the host's accesses while it is
asserted. -/

namespace Sys2Proof.Proofs
open Sys2Proof Sys2Proof.Machine

theorem step_of_assertReset {s : State} {rest : List Turn} (h : s.agenda = .assertReset :: rest) :
    step s = .next (assertReset { s with agenda := rest }) := by
  simp [step, takeTurn, h]

theorem hostWrite_of_resetPin {s : State} (off size : Nat) (v : Word) (hpin : s.resetPin = true) :
    hostWrite off size v s = s := by
  rw [hostWrite, if_pos hpin]

theorem hostRead_of_resetPin {s : State} (off size : Nat) (hpin : s.resetPin = true) :
    hostRead off size s = answerUnspecified size s := by
  rw [hostRead, if_pos hpin]

/-- Settles O54: the assertion is `resetBlock` but for the input itself; under it a write is dropped and a read is answered
with the next unspecified value. -/
theorem assertedResetAcceptsNoAccess : Obligations.AssertedResetAcceptsNoAccess := by
  refine fun s rest => ⟨fun hturn => ?_, fun hpin => ⟨fun off size v hturn => ?_, fun off size hturn => ?_⟩⟩
  · exact ⟨_, step_of_assertReset hturn, isReset_resetBlock _, rfl, rfl, rfl⟩
  · rw [step_of_host hturn, hostAccess, hostWrite_of_resetPin (s := { s with agenda := rest }) off size v hpin]
  · rw [step_of_host hturn, hostAccess, hostRead_of_resetPin (s := { s with agenda := rest }) off size hpin]
    exact ⟨_, rfl⟩

end Sys2Proof.Proofs
end

section
/-! The words of the moves (30_encoding.md R98), and `LDI` and `MOV` (44_moves_encoding.md R213, R214). -/

namespace Sys2Proof.Proofs
open Sys2Proof Sys2Proof.Machine

/-! ### The words of the moves -/

/-- Bit 33 of a word is the sign bit of the `mode` field and bit 32 its byte order (30_encoding.md R91). -/
theorem fieldsOf_mode (w : Word) : (fieldsOf w).mode = modeAt w := by
  have htoCodec : ∀ x : BitVec 2, toCodec x =
      if x.getLsbD 1 then (if x.getLsbD 0 then .sle else .sbe) else (if x.getLsbD 0 then .ule else .ube) := by
    decide
  simp [Fields.mode, htoCodec, fieldsOf, modeAt]

theorem ldi_words :
    EncodedAs 0x1000000000000000 0xFF0FFFFF00000000 fun w => .ldi (regAt w 52) (w.extractLsb' 0 32) :=
  encodedAs_of_rowOf (op := 0x10) rfl fun _ => rfl

theorem mov_words : EncodedAs 0x1100000000000000 0xFF00FFFFFFFFFFFF fun w => .mov (regAt w 52) (regAt w 48) :=
  encodedAs_of_rowOf (op := 0x11) rfl fun _ => rfl

theorem ld_words :
    EncodedAs 0x1200000000000000 0xFF0FFFFC00000000
      fun w => .ld (regAt w 52) (modeAt w) (w.extractLsb' 16 16) (w.extractLsb' 0 16) := by
  simp only [← fieldsOf_mode, ← fieldsOf_len, ← fieldsOf_addr]
  exact encodedAs_of_rowOf (op := 0x12) rfl fun _ => rfl

theorem st_words :
    EncodedAs 0x1300000000000000 0xFFF0FFFC00000000
      fun w => .st (regAt w 48) (modeAt w) (w.extractLsb' 16 16) (w.extractLsb' 0 16) := by
  simp only [← fieldsOf_mode, ← fieldsOf_len, ← fieldsOf_addr]
  exact encodedAs_of_rowOf (op := 0x13) rfl fun _ => rfl

theorem enclen_words :
    EncodedAs 0x1400000000000000 0xFFF0FFFCFFFFFFFF fun w => .enclen (regAt w 48) (modeAt w) := by
  simp only [← fieldsOf_mode]
  exact encodedAs_of_rowOf (op := 0x14) rfl fun _ => rfl

/-! ### `LDI` and `MOV` -/

theorem exec_ldi (s : State) (rd : Reg) (imm : BitVec 32) :
    exec (.ldi rd imm) s = .next (s.withReg rd (signedImm imm)).counted :=
  finish_ok s _

theorem signedImm_eq (imm : BitVec 32) :
    signedImm imm = if imm.toNat < 2 ^ 31 then (imm.toNat : Int) else imm.toNat - 2 ^ 32 := by
  rw [signedImm, BitVec.toInt_eq_toNat_cond]
  split_ifs <;> omega

/-- Settles O8: the two's-complement reading of 32 bits, which the least legal register width exceeds. -/
theorem ldiLoadsSignedImmediate : Obligations.LdiLoadsSignedImmediate :=
  ⟨ldi_words, fun s rd imm =>
    ⟨signedImm imm, signedImm_eq imm, exec_ldi s rd imm, fun hc => inRange_signedImm hc imm⟩⟩

section
variable {s : State} {rd ra : Reg} {a : Int}

theorem exec_mov_of_none (h : s.regs[ra] = none) : exec (.mov rd ra) s = .next (s.faulted 2) :=
  finish_source_of_none h _

theorem exec_mov_of_some (ha : s.regs[ra] = some a) : exec (.mov rd ra) s = .next (s.withReg rd a).counted :=
  finish_source_of_some ha _

end

/-- Settles O9: the one source either has no value or is copied. -/
theorem movCopies : Obligations.MovCopies :=
  ⟨mov_words, fun _ _ _ => ⟨exec_mov_of_none, fun _ => exec_mov_of_some⟩⟩

end Sys2Proof.Proofs
end

section
/-! The four integer encodings (44_moves_encoding.md R210 to R212, R218). In every mode the bytes of a string are the digits
to base 256 of its unsigned reading, in the order of the mode; the string's value is the one number that fits the string's
length and leaves the unsigned reading as its residue modulo `256^n`. -/

namespace Sys2Proof.Proofs
open Sys2Proof Sys2Proof.Machine

/-! ### Modes -/

theorem unsigned_iff {m : Codec} : Unsigned m ↔ isSigned m = false := by
  cases m <;> decide

/-- The command's test of the sign, in the words of the statements. -/
theorem signTest_iff {m : Codec} {v : Int} : (isSigned m = true ∨ 0 ≤ v) ↔ (Unsigned m → 0 ≤ v) := by
  rw [unsigned_iff]
  cases isSigned m <;> simp

theorem fits_of_unsigned {m : Codec} (hm : Unsigned m) {v : Int} {n : Nat} : Fits m v n ↔ 0 ≤ v ∧ v < 256 ^ n := by
  obtain rfl | rfl := hm <;> rfl

theorem fits_of_signed {m : Codec} (hm : ¬Unsigned m) {v : Int} {n : Nat} :
    Fits m v n ↔ 0 < n ∧ -256 ^ n ≤ 2 * v ∧ 2 * v < 256 ^ n := by
  cases m
  case ube => exact absurd (.inl rfl) hm
  case ule => exact absurd (.inr rfl) hm
  case sbe => rfl
  case sle => rfl

theorem pos_or_unsigned_of_fits {m : Codec} {v : Int} {n : Nat} (h : Fits m v n) : 0 < n ∨ Unsigned m :=
  (em (Unsigned m)).symm.imp_left fun hm => ((fits_of_signed hm).1 h).1

theorem nonneg_of_fits {m : Codec} {v : Int} {n : Nat} (h : Fits m v n) (hm : Unsigned m) : 0 ≤ v :=
  ((fits_of_unsigned hm).1 h).1

/-- Two numbers that fit the same bytes and agree modulo `256^n` are one. -/
theorem eq_of_fits_of_emod_eq {m : Codec} {v w : Int} {n : Nat} (hv : Fits m v n) (hw : Fits m w n)
    (h : v % 256 ^ n = w % 256 ^ n) : v = w := by
  have hclose : |v - w| < 256 ^ n := by
    by_cases hm : Unsigned m
    · rw [fits_of_unsigned hm] at hv hw
      rw [abs_lt]
      omega
    · rw [fits_of_signed hm] at hv hw
      rw [abs_lt]
      omega
  have hdvd : 256 ^ n ∣ v - w := Int.dvd_of_emod_eq_zero (Int.emod_eq_emod_iff_emod_sub_eq_zero.1 h)
  exact sub_eq_zero.1 (Int.eq_zero_of_abs_lt_dvd hdvd hclose)

/-! ### The bytes of a string as digits -/

/-- Which digit to base 256 of the unsigned reading byte `k` of `n` bytes is, and which byte is digit `k`: the byte order of
the mode (20_memory.md R62, 44_moves_encoding.md R218). -/
def digitIndex (m : Codec) (n k : Nat) : Nat := if m = .ule ∨ m = .sle then k else n - 1 - k

theorem digitIndex_lt (m : Codec) {n k : Nat} (hk : k < n) : digitIndex m n k < n := by
  unfold digitIndex
  split <;> omega

theorem digitIndex_digitIndex (m : Codec) {n k : Nat} (hk : k < n) : digitIndex m n (digitIndex m n k) = k := by
  unfold digitIndex
  split <;> omega

theorem sumLE_succ (f : Nat → Byte) (n : Nat) : sumLE f (n + 1) = sumLE f n + (f n).toNat * 256 ^ n :=
  Finset.sum_range_succ _ _

/-- The model's reading of a list is the sum of 44_moves_encoding.md R210. -/
theorem natCast_decodeLE_map_range (n : Nat) : ∀ f : Nat → Byte, (decodeLE ((List.range n).map f) : Int) = sumLE f n := by
  induction n with
  | zero => exact fun f => rfl
  | succ n ih =>
    intro f
    rw [List.range_succ_eq_map, List.map_cons, List.map_map, decodeLE, Nat.cast_add, Nat.cast_mul, ih, sumLE, sumLE,
      Finset.sum_range_succ', Finset.mul_sum, add_comm]
    simp [pow_succ', mul_left_comm]

theorem sumBE_eq_sumLE (f : Nat → Byte) (n : Nat) : sumBE f n = sumLE (fun k => f (n - 1 - k)) n := by
  rw [sumBE, sumLE, ← Finset.sum_range_reflect]
  refine Finset.sum_congr rfl fun k hk => ?_
  rw [Nat.sub_sub_self (by have := Finset.mem_range.1 hk; omega)]

theorem natCast_decodeBE_map_range (f : Nat → Byte) (n : Nat) : (decodeBE ((List.range n).map f) : Int) = sumBE f n := by
  have hreverse : ((List.range n).map f).reverse = (List.range n).map fun k => f (n - 1 - k) :=
    List.ext_getElem (by simp) (by simp)
  rw [decodeBE, hreverse, natCast_decodeLE_map_range, sumBE_eq_sumLE]

theorem sumLE_bounds (f : Nat → Byte) (n : Nat) : 0 ≤ sumLE f n ∧ sumLE f n < 256 ^ n := by
  have hlt := decodeLE_lt ((List.range n).map f)
  rw [List.length_map, List.length_range] at hlt
  rw [← natCast_decodeLE_map_range]
  exact ⟨Int.natCast_nonneg _, mod_cast hlt⟩

theorem sumLE_digit (f : Nat → Byte) {n k : Nat} (hk : k < n) : sumLE f n / 256 ^ k % 256 = (f k).toNat := by
  have hdigit := decodeLE_div_pow_mod ((List.range n).map f) (k := k) (by simpa using hk)
  rw [List.getElem_map, List.getElem_range] at hdigit
  rw [← natCast_decodeLE_map_range]
  exact_mod_cast hdigit

/-- The bytes that are the digits of a number spell it. -/
theorem sumLE_of_digits {f : Nat → Byte} (x : Nat) (n : Nat) (h : ∀ k < n, (f k).toNat = x / 256 ^ k % 256) :
    sumLE f n = (x % 256 ^ n : Nat) := by
  induction n with
  | zero => simp [sumLE, Nat.mod_one]
  | succ n ih =>
    rw [sumLE_succ, ih fun k hk => h k (by omega), h n (by omega), Nat.pow_succ, Nat.mod_mul]
    push_cast
    ring

/-- The most significant byte has its top bit set exactly when the number is in the upper half. -/
theorem topByte_ge_iff (f : Nat → Byte) {n : Nat} (hn : 0 < n) :
    0x80 ≤ (f (n - 1)).toNat ↔ (256 : Int) ^ n ≤ 2 * sumLE f n := by
  obtain ⟨n, rfl⟩ : ∃ k, n = k + 1 := Nat.exists_eq_add_one.2 hn
  obtain ⟨hlo, hhi⟩ := sumLE_bounds f n
  rw [sumLE_succ, pow_succ, Nat.add_sub_cancel]
  constructor
  · intro htop
    have hmul : (128 : Int) * 256 ^ n ≤ (f n).toNat * 256 ^ n :=
      mul_le_mul_of_nonneg_right (by exact_mod_cast htop) (by positivity)
    omega
  · intro hhalf
    by_contra htop
    have hmul : ((f n).toNat : Int) * 256 ^ n ≤ 127 * 256 ^ n :=
      mul_le_mul_of_nonneg_right (by omega) (by positivity)
    omega

/-! ### The reading of a string -/

/-- The unsigned reading of a string in the byte order of a mode (44_moves_encoding.md R210). -/
def unsignedReading (m : Codec) (f : Nat → Byte) (n : Nat) : Int := sumLE (fun k => f (digitIndex m n k)) n

theorem unsignedReading_bounds (m : Codec) (f : Nat → Byte) (n : Nat) :
    0 ≤ unsignedReading m f n ∧ unsignedReading m f n < 256 ^ n := sumLE_bounds _ n

theorem unsignedReading_digit (m : Codec) (f : Nat → Byte) {n k : Nat} (hk : k < n) :
    unsignedReading m f n / 256 ^ digitIndex m n k % 256 = (f k).toNat := by
  rw [unsignedReading, sumLE_digit _ (digitIndex_lt m hk), digitIndex_digitIndex m hk]

/-- The two's-complement reading of 44_moves_encoding.md R211, told by the unsigned reading alone. -/
theorem reading_eq (m : Codec) (f : Nat → Byte) (n : Nat) :
    reading m f n =
      if isSigned m = true ∧ 256 ^ n ≤ 2 * unsignedReading m f n then unsignedReading m f n - 256 ^ n
      else unsignedReading m f n := by
  have htop : (0 < n ∧ 0x80 ≤ (f (digitIndex m n (n - 1))).toNat) ↔ 256 ^ n ≤ 2 * unsignedReading m f n := by
    cases n with
    | zero => simp [unsignedReading, sumLE]
    | succ n =>
      exact (and_iff_right n.succ_pos).trans (topByte_ge_iff (fun k => f (digitIndex m (n + 1) k)) n.succ_pos)
  refine Eq.trans ?_ (if_congr (and_congr_right' htop) rfl rfl)
  cases m
  case ube => exact sumBE_eq_sumLE f n
  case ule => rfl
  case sbe => simp [reading, isSigned, unsignedReading, digitIndex, sumBE_eq_sumLE]
  case sle => simp [reading, isSigned, unsignedReading, digitIndex]

theorem reading_emod (m : Codec) (f : Nat → Byte) (n : Nat) : reading m f n % 256 ^ n = unsignedReading m f n := by
  have hresidue : unsignedReading m f n % 256 ^ n = unsignedReading m f n := by
    obtain ⟨hlo, hhi⟩ := unsignedReading_bounds m f n
    exact Int.emod_eq_of_lt hlo hhi
  rw [reading_eq]
  split
  · rw [Int.sub_emod_right, hresidue]
  · exact hresidue

/-- The empty string in a signed mode is the one whose reading does not fit it (44_moves_encoding.md R216). -/
theorem fits_reading {m : Codec} (f : Nat → Byte) {n : Nat} (h : 0 < n ∨ Unsigned m) : Fits m (reading m f n) n := by
  have hbounds := unsignedReading_bounds m f n
  by_cases hm : Unsigned m
  · rw [fits_of_unsigned hm, reading_eq, if_neg (by simp [unsigned_iff.1 hm])]
    exact hbounds
  · rw [fits_of_signed hm, reading_eq]
    refine ⟨h.resolve_right hm, ?_⟩
    rw [unsigned_iff, Bool.not_eq_false] at hm
    simp only [hm, true_and]
    split <;> omega

/-- What the bytes of a number in a mode spell is the number, if it fits them. -/
theorem reading_of_digits {m : Codec} {f : Nat → Byte} {v : Int} {n : Nat} (hv : Fits m v n)
    (h : ∀ k < n, ((f k).toNat : Int) = v % 256 ^ n / 256 ^ digitIndex m n k % 256) : reading m f n = v := by
  refine eq_of_fits_of_emod_eq (fits_reading f (pos_or_unsigned_of_fits hv)) hv ?_
  have hpos : (0 : Int) < 256 ^ n := by positivity
  obtain ⟨x, hx⟩ := Int.eq_ofNat_of_zero_le (Int.emod_nonneg v hpos.ne')
  have hlt : x < 256 ^ n := by
    have := Int.emod_lt_of_pos v hpos
    rw [hx] at this
    exact_mod_cast this
  rw [reading_emod, unsignedReading, sumLE_of_digits x n, Nat.mod_eq_of_lt hlt, hx]
  intro k hk
  have hdigit := h _ (digitIndex_lt m hk)
  rw [digitIndex_digitIndex m hk, hx] at hdigit
  exact_mod_cast hdigit

/-! ### The model's decoder and encoder of bytes -/

theorem decodeBytes_map_range (m : Codec) (f : Nat → Byte) (n : Nat) :
    decodeBytes m ((List.range n).map f) = reading m f n := by
  cases m
  case ube => exact natCast_decodeBE_map_range f n
  case ule => exact natCast_decodeLE_map_range n f
  case sbe =>
    rw [decodeBytes, signedReading, natCast_decodeBE_map_range]
    cases n <;> simp [reading, List.head?_range]
  case sle =>
    rw [decodeBytes, signedReading, natCast_decodeLE_map_range]
    cases n <;> simp [reading, List.getLast?_range]

theorem decodeBytes_readBytes (m : Codec) (s : State) (a n : Nat) :
    decodeBytes m (readBytes s a n) = reading m (fun k => readByte s (a + k)) n :=
  decodeBytes_map_range m _ n

theorem natCast_toNat_digit (u : Nat) (j : Nat) :
    ((BitVec.ofNat 8 (u >>> (8 * j))).toNat : Int) = (u : Int) / 256 ^ j % 256 := by
  rw [BitVec.toNat_ofNat, Nat.shiftRight_eq_div_pow, Nat.pow_mul]
  push_cast
  rfl

/-- Byte `k` of an encoding (44_moves_encoding.md R218). -/
theorem encodeBytes_digit (m : Codec) (v : Int) {n k : Nat} (hk : k < (encodeBytes m v n).length) :
    ((encodeBytes m v n)[k].toNat : Int) = v % 256 ^ n / 256 ^ digitIndex m n k % 256 := by
  have hresidue : ((v % ((256 ^ n : Nat) : Int)).toNat : Int) = v % 256 ^ n := by
    rw [Int.toNat_of_nonneg (Int.emod_nonneg v (by positivity))]
    push_cast
    rfl
  rw [← hresidue, ← natCast_toNat_digit]
  cases m <;> simp only [encodeBytes, isLittle, encodeLE, encodeBE, digitIndex] <;> simp

/-! ### The minimal lengths (44_moves_encoding.md R212) -/

theorem pow_256_eq (n : Nat) : (256 : Int) ^ n = 2 ^ (8 * n) := by
  rw [pow_mul]
  norm_num

theorem minlenUnsigned_le_iff {v : Int} (hv : 0 ≤ v) (n : Nat) : minlenUnsigned v ≤ n ↔ v < 256 ^ n := by
  have hpos : (0 : Int) < 2 ^ (8 * n) := by positivity
  have hbits : minlenUnsigned v ≤ n ↔ bitlen v ≤ 8 * n := by
    unfold minlenUnsigned
    omega
  rw [hbits, le_iff_of_isBitlen (isBitlen_bitlen v), pow_256_eq]
  omega

theorem minlenSigned_le_iff (v : Int) (n : Nat) :
    minlenSigned v ≤ n ↔ 0 < n ∧ -256 ^ n ≤ 2 * v ∧ 2 * v < 256 ^ n := by
  unfold minlenSigned
  cases n with
  | zero => simp
  | succ n =>
    have hbits : bitlen v / 8 + 1 ≤ n + 1 ↔ bitlen v ≤ 8 * n + 7 := by omega
    have hpow : (256 : Int) ^ (n + 1) = 2 * 2 ^ (8 * n + 7) := by
      rw [pow_256_eq, ← pow_succ']
      rfl
    rw [hbits, le_iff_of_isBitlen (isBitlen_bitlen v), hpow]
    omega

/-- The minimal length is the least that the value fits (44_moves_encoding.md R212). -/
theorem minlen_le_iff {m : Codec} {v : Int} (hv : Unsigned m → 0 ≤ v) (n : Nat) : minlen m v ≤ n ↔ Fits m v n := by
  by_cases hm : Unsigned m
  · rw [minlen, if_neg (by simp [unsigned_iff.1 hm]), minlenUnsigned_le_iff (hv hm), fits_of_unsigned hm]
    exact (and_iff_right (hv hm)).symm
  · rw [fits_of_signed hm, minlen, if_pos (by simpa [unsigned_iff] using hm), minlenSigned_le_iff]

theorem minlen_of_isBitlen (m : Codec) {v : Int} {k : Nat} (h : IsBitlen v k) :
    minlen m v = if Unsigned m then (k + 7) / 8 else k / 8 + 1 := by
  have hk : bitlen v = k :=
    Nat.le_antisymm ((le_iff_of_isBitlen (isBitlen_bitlen v) k).2 ((le_iff_of_isBitlen h k).1 le_rfl))
      ((le_iff_of_isBitlen h _).2 ((le_iff_of_isBitlen (isBitlen_bitlen v) _).1 le_rfl))
  cases m <;> simp [minlen, isSigned, minlenUnsigned, minlenSigned, hk]

theorem minlen_le_width {c : Config} (hc : c.Legal) (m : Codec) {v : Int} (hv : InRange c v) :
    minlen m v ≤ c.width / 8 := by
  have hbits := (inRange_iff_of_isBitlen (isBitlen_bitlen v)).1 hv
  rw [minlen_of_isBitlen m (isBitlen_bitlen v)]
  simp only [Config.width, limbBits] at *
  split <;> omega

end Sys2Proof.Proofs
end

section
/-! `LD`, `ST` and `ENCLEN` (44_moves_encoding.md R215 to R217), and the round trip of R219. -/

namespace Sys2Proof.Proofs
open Sys2Proof Sys2Proof.Machine

/-! ### `LD` -/

section
variable {s : State} {rd : Reg} {m : Codec} {len addr : BitVec 16}

theorem exec_ld_of_outOfBounds (h : s.cfg.bufsz < addr.toNat + len.toNat) :
    exec (.ld rd m len addr) s = .next (s.faulted 3) :=
  finish_require_of_false (not_le.2 h) _

theorem exec_ld_of_inBuffer (hb : InBuffer s len addr) {v : Int}
    (hv : reading m (fun k => readByte s (addr.toNat + k)) len.toNat = v) :
    (InRange s.cfg v → exec (.ld rd m len addr) s = .next (s.withReg rd v).counted) ∧
    (¬InRange s.cfg v → exec (.ld rd m len addr) s = .next (s.faulted 10)) := by
  rw [exec, execLd, finish_require_of_true hb, decodeBytes_readBytes, hv]
  exact finish_requireInRange v (writeReg s rd v)

end

/-- Settles O10: the model's decoder answers the reading of the rules, and its two tests are taken in turn. -/
theorem ldDecodesTheBytes : Obligations.LdDecodesTheBytes :=
  ⟨ld_words, fun _ _ _ _ _ => ⟨exec_ld_of_outOfBounds, fun hb _ hv => (exec_ld_of_inBuffer hb hv.symm).symm⟩⟩

/-! ### `ST` -/

/-- `t` is the state `s` with the `n` bytes from `a` replaced by those of `v` in the mode, and nothing else changed but the
count and `BUSY` (44_moves_encoding.md R216, R218). -/
structure Stored (m : Codec) (v : Int) (a n : Nat) (s t : State) : Prop where
  frame : t = { s.counted with buf := t.buf }
  digits : ∀ k < n, ((readByte t (a + k)).toNat : Int) = v % 256 ^ n / 256 ^ digitIndex m n k % 256
  outside : ∀ x, x < a ∨ a + n ≤ x → readByte t x = readByte s x

theorem readByte_complete (s : State) (a : Nat) : readByte (complete s) a = readByte s a := rfl

theorem stored_writeBytes (m : Codec) (v : Int) (a n : Nat) (s : State) :
    Stored m v a n s (complete (writeBytes s a (encodeBytes m v n))) := by
  have hlen := encodeBytes_length m v n
  refine ⟨rfl, fun k hk => ?_, fun x hx => ?_⟩
  · rw [readByte_complete, readByte_writeBytes_inside (hlen.symm ▸ hk), encodeBytes_digit]
  · exact readByte_writeBytes_outside (s := s) (by omega)

section
variable {s : State} {ra : Reg} {m : Codec} {len addr : BitVec 16} {v : Int}

theorem exec_st_of_none (h : s.regs[ra] = none) : exec (.st ra m len addr) s = .next (s.faulted 2) :=
  finish_source_of_none h _

theorem exec_st_of_outOfBounds (hv : s.regs[ra] = some v) (h : s.cfg.bufsz < addr.toNat + len.toNat) :
    exec (.st ra m len addr) s = .next (s.faulted 3) := by
  rw [exec, execSt, finish_source_of_some hv]
  exact finish_require_of_false (not_le.2 h) _

theorem exec_st_of_negative (hv : s.regs[ra] = some v) (hb : InBuffer s len addr) (hm : Unsigned m) (h : v < 0) :
    exec (.st ra m len addr) s = .next (s.faulted 7) := by
  rw [exec, execSt, finish_source_of_some hv, finish_require_of_true hb]
  exact finish_require_of_false (mt signTest_iff.1 fun hsign => (hsign hm).not_gt h) _

theorem exec_st_of_not_fits (hv : s.regs[ra] = some v) (hb : InBuffer s len addr) (hsign : Unsigned m → 0 ≤ v)
    (h : ¬Fits m v len.toNat) : exec (.st ra m len addr) s = .next (s.faulted 9) := by
  rw [exec, execSt, finish_source_of_some hv, finish_require_of_true hb, finish_require_of_true (signTest_iff.2 hsign)]
  exact finish_require_of_false (mt (minlen_le_iff hsign _).1 h) _

theorem exec_st_of_fits (hv : s.regs[ra] = some v) (hb : InBuffer s len addr) (h : Fits m v len.toNat) :
    ∃ t : State, exec (.st ra m len addr) s = .next t ∧ Stored m v addr.toNat len.toNat s t := by
  refine ⟨_, ?_, stored_writeBytes m v addr.toNat len.toNat s⟩
  rw [exec, execSt, finish_source_of_some hv, finish_require_of_true hb,
    finish_require_of_true (signTest_iff.2 (nonneg_of_fits h)),
    finish_require_of_true ((minlen_le_iff (nonneg_of_fits h) _).2 h)]
  rfl

end

/-- Settles O11: the four tests in turn, then the bytes of the encoding at their addresses. -/
theorem stEncodesTheValue : Obligations.StEncodesTheValue :=
  ⟨st_words, fun _ _ _ _ _ => ⟨exec_st_of_none, fun _ hv => ⟨exec_st_of_outOfBounds hv, fun hb =>
    ⟨exec_st_of_negative hv hb, exec_st_of_not_fits hv hb, fun _ hfits =>
      let ⟨t, hexec, hstored⟩ := exec_st_of_fits hv hb hfits
      ⟨t, hexec, hstored.frame, hstored.digits, hstored.outside⟩⟩⟩⟩⟩

/-! ### `ENCLEN` -/

section
variable {s : State} {ra : Reg} {m : Codec} {v : Int}

theorem exec_enclen_of_none (h : s.regs[ra] = none) : exec (.enclen ra m) s = .next (s.faulted 2) :=
  finish_source_of_none h _

theorem exec_enclen_of_negative (hv : s.regs[ra] = some v) (hm : Unsigned m) (h : v < 0) :
    exec (.enclen ra m) s = .next (s.faulted 7) := by
  rw [exec, execEnclen, finish_source_of_some hv]
  exact finish_require_of_false (mt signTest_iff.1 fun hsign => (hsign hm).not_gt h) _

theorem exec_enclen_of_some (hv : s.regs[ra] = some v) (hsign : Unsigned m → 0 ≤ v) :
    exec (.enclen ra m) s = .next { s with sres := BitVec.ofNat 64 (minlen m v) }.counted := by
  rw [exec, execEnclen, finish_source_of_some hv, finish_require_of_true (signTest_iff.2 hsign)]
  rfl

end

/-- Settles O12: the lengths the value fits are those from the minimal length on. -/
theorem enclenGivesLeastLength : Obligations.EnclenGivesLeastLength :=
  ⟨enclen_words, fun _ _ m => ⟨exec_enclen_of_none, fun v hv => ⟨exec_enclen_of_negative hv, fun hsign =>
    ⟨minlen m v, (minlen_le_iff hsign _).1 le_rfl, fun k hk hfits => hk.not_ge ((minlen_le_iff hsign k).2 hfits),
      fun _ => minlen_of_isBitlen m, fun hc => minlen_le_width hc m, exec_enclen_of_some hv hsign⟩⟩⟩⟩

/-! ### The round trip -/

theorem withReg_counted_regs (s : State) (r : Reg) (v : Int) : (s.withReg r v).counted.regs[r] = some v :=
  (writeReg_get s r r v).trans (if_pos rfl)

section
variable {m : Codec} {v : Int} {a n : Nat} {s t : State}

theorem Stored.cfg_eq (h : Stored m v a n s t) : t.cfg = s.cfg := by rw [h.frame]; rfl

/-- What is stored is read back. -/
theorem Stored.reading_eq (h : Stored m v a n s t) (hv : Fits m v n) :
    reading m (fun k => readByte t (a + k)) n = v :=
  reading_of_digits hv h.digits

/-- Storing a string's reading stores the string, wherever it came from. -/
theorem Stored.readByte_eq {f : Nat → Byte} (h : Stored m (reading m f n) a n s t) {k : Nat} (hk : k < n) :
    readByte t (a + k) = f k := by
  have hdigit := h.digits k hk
  rw [reading_emod, unsignedReading_digit m f hk] at hdigit
  exact BitVec.eq_of_toNat_eq (by exact_mod_cast hdigit)

/-- With the least length the top digit of an unsigned encoding is not 0: without it the value would fit one byte less. -/
theorem Stored.topByte_ne_zero (h : Stored m v a n s t) (hm : Unsigned m) (hv : Fits m v n)
    (hleast : ∀ k < n, ¬Fits m v k) (hn : 0 < n) : readByte t (a + if m = .ule then n - 1 else 0) ≠ 0 := by
  obtain ⟨hlo, hhi⟩ := (fits_of_unsigned hm).1 hv
  have hbig : 256 ^ (n - 1) ≤ v := by
    have := hleast (n - 1) (by omega)
    rw [fits_of_unsigned hm] at this
    omega
  have hindex : digitIndex m n (if m = .ule then n - 1 else 0) = n - 1 := by
    obtain rfl | rfl := hm <;> simp [digitIndex]
  have hdigit := h.digits (if m = .ule then n - 1 else 0) (by split <;> omega)
  have hpow : (256 : Int) ^ n = 256 * 256 ^ (n - 1) := by rw [← pow_succ', Nat.sub_add_cancel hn]
  have hpos : (0 : Int) < 256 ^ (n - 1) := by positivity
  have hquotlo : 1 ≤ v / 256 ^ (n - 1) := (Int.le_ediv_iff_mul_le hpos).2 (by omega)
  have hquothi : v / 256 ^ (n - 1) < 256 := (Int.ediv_lt_iff_lt_mul hpos).2 (hpow ▸ hhi)
  rw [hindex, Int.emod_eq_of_lt hlo hhi] at hdigit
  intro hzero
  rw [hzero, BitVec.ofNat_eq_ofNat, BitVec.toNat_zero] at hdigit
  omega

end

/-- Storing and loading back, with the bytes in between. -/
theorem exec_st_then_ld {s : State} {ra : Reg} {m : Codec} {len addr : BitVec 16} {v : Int} (rd : Reg)
    (hv : s.regs[ra] = some v) (hr : InRange s.cfg v) (hfits : Fits m v len.toNat) (hb : InBuffer s len addr) :
    ∃ t : State, exec (.st ra m len addr) s = .next t ∧ Stored m v addr.toNat len.toNat s t ∧
      exec (.ld rd m len addr) t = .next (t.withReg rd v).counted := by
  obtain ⟨t, hexec, hstored⟩ := exec_st_of_fits hv hb hfits
  have hbt : InBuffer t len addr := hb.trans_eq (by rw [hstored.cfg_eq])
  exact ⟨t, hexec, hstored, (exec_ld_of_inBuffer hbt (hstored.reading_eq hfits)).1 (hstored.cfg_eq ▸ hr)⟩

/-- Settles O44: the value that fits is the one its bytes spell, and the bytes are the digits of what they spell; the empty
string in a signed mode is the one that `ST` refuses. -/
theorem storeAndLoadRoundTrip : Obligations.StoreAndLoadRoundTrip := by
  constructor
  · intro s rd ra m len addr v hv hr hfits hb
    obtain ⟨t, hst, hstored, hld⟩ := exec_st_then_ld rd hv hr hfits hb
    exact ⟨t, _, hst, hld, withReg_counted_regs t rd v, fun hm => hstored.topByte_ne_zero hm hfits⟩
  · intro s rd m len addr addr₂ hr hb hb₂
    have hld := (exec_ld_of_inBuffer (rd := rd) hb rfl).1 hr
    have hreg := withReg_counted_regs s rd (reading m (fun k => readByte s (addr.toNat + k)) len.toNat)
    by_cases hstr : 0 < len.toNat ∨ Unsigned m
    · obtain ⟨u, hst, hstored⟩ := exec_st_of_fits hreg hb₂ (fits_reading _ hstr)
      refine ⟨_, u, hld, rfl, rfl, hst, fun _ => ⟨?_, ?_, fun k hk => hstored.readByte_eq hk, hstored.outside⟩,
        fun h0 hm => hstr.elim (fun h => absurd h0 h.ne') (absurd · hm)⟩
      · rw [hstored.frame]; rfl
      · rw [hstored.frame]
        exact BitVec.add_assoc s.cmdcnt 1 1
    · have hnot : ¬Fits m (reading m (fun k => readByte s (addr.toNat + k)) len.toNat) len.toNat :=
        mt pos_or_unsigned_of_fits hstr
      have hst := exec_st_of_not_fits hreg hb₂ (fun hm => absurd (.inr hm) hstr) hnot
      exact ⟨_, _, hld, rfl, rfl, hst, fun h => absurd h hstr, fun _ _ => rfl⟩

end Sys2Proof.Proofs
end
